-- ==== Sys2Proof/Word.lean ====
section
/-! DEFINITION. The widths the spec's registers and memories are made of. -/

namespace Sys2Proof

/-- One byte of an address space (20_memory.md R70, R76). -/
abbrev Byte := BitVec 8

/-- One control register or one host access (10_state.md R31, 20_memory.md R71). -/
abbrev Word := BitVec 32

end Sys2Proof
end

