-- ==== Sys2Proof/Config.lean ====
section
/-! DEFINITION. Constants of the document (00_scope.md R9) and the open fields of the configuration record Cfg
(00_scope.md R10). An open field is an opaque constant: nothing can be proved of its value, so a theorem about the
model holds for every configuration (log 6, log 7). -/

namespace Sys2Proof

/-- The channel index c: 0 = L, 1 = R (00_scope.md R9, 10_state.md section 4). -/
inductive Chan where
  | l | r
  deriving DecidableEq, Repr, Inhabited

/-- The two bitstream layouts (00_scope.md R3). -/
inductive Layout where
  | a | b
  deriving DecidableEq, Repr, Inhabited

/-- The memories whose unlisted bytes read as free values (log 9). -/
inductive Space where
  | lit | tab | out | stream
  deriving DecidableEq, Repr, Inhabited

/-- A code of one value of `Cfg.Num` (45_requantizer.md R260, log 6). -/
structure Num where
  code : Int
  deriving DecidableEq, Repr, Inhabited

/-- A code of one value of `Cfg.Hist` (10_state.md R62, log 6). -/
structure Hist where
  code : List Int
  deriving DecidableEq, Repr, Inhabited

/-- A code of one value of `Cfg.PrngState` (10_state.md R63, log 6). -/
structure Prng where
  code : List Int
  deriving DecidableEq, Repr, Inhabited

/-- A code of one value of `Cfg.DithState` (10_state.md R64, log 6). -/
structure Dith where
  code : List Int
  deriving DecidableEq, Repr, Inhabited

namespace Config

/-! The operations of `Cfg.Num` (45_requantizer.md R260). -/

/-- `zero`. -/
opaque zero : Num
/-- `ofInt`. -/
opaque ofInt : Int → Num
/-- `add`, written (+). -/
opaque add : Num → Num → Num
/-- `sub`, written (-). -/
opaque sub : Num → Num → Num
/-- `mul`, written (*). -/
opaque mul : Num → Num → Num
/-- `neg`. -/
opaque neg : Num → Num

/-! Tables. -/

/-- `RESBITS[r] - 1` for r = 8 + index: the type states the constraint 1 <= RESBITS[r] <= 20 (R10). -/
opaque resBitsPred : Fin 10 → Fin 20
/-- `DOFF[r]` for r = 8 + index: the type states 0 <= DOFF[r] < 2^20 (R10). -/
opaque dOff : Fin 10 → BitVec 20
/-- `CC[r]`, the per-resolution scale constant (45_requantizer.md R261). -/
opaque cc : Int → Num
/-- `SCFTAB[i]`, the 256-entry scale table (45_requantizer.md R261, R263). -/
opaque scfTab : BitVec 8 → Num

/-! The filterbank, the noise generator and the output conversion. -/

/-- `Hist0` (46_synthesis.md R293). -/
opaque hist0 : Hist
/-- `SynthSlot`: one slot of synthesis (46_synthesis.md R291). -/
opaque synthSlot : Hist → Vector Num 32 → Hist × Vector Num 32
/-- `PrngInit` (10_state.md R63). -/
opaque prngInit : Word → Prng
/-- `NoiseQ`: one noise draw (42_frame_parser.md R192). -/
opaque noiseQ : Prng → Prng × Int
/-- `Dith0` (10_state.md R64). -/
opaque dith0 : Dith
/-- `ToFixed` (46_synthesis.md R302). -/
opaque toFixed : Dith → Chan → Num → Dith × Int
/-- `NumBits` (46_synthesis.md R301). -/
opaque numBits : Num → Word

/-! The host's side. -/

/-- Does a host write to OUT store, or is it ignored? The spec gives OUT no access kind (20_memory.md R73, 60_exceptions.md
R345, log 20). -/
opaque outWritable : Bool

/-! Free values: what the spec calls unspecified. The first argument is a counter of State, so that every occasion has
its own value. -/

/-- The byte an unlisted address of a memory reads as, by epoch and address (log 9). -/
opaque unwritten : Space → Nat → Nat → Byte
/-- A stream bit that is unspecified because the host changed STREAM under an open stream, by occasion, the bit cursor of
the fetch and the bit's position (70_reset_and_hazards.md R374, log 21). -/
opaque staleBit : Nat → Nat → Nat → Bool
/-- A free register value, by occasion and item (log 12, log 14). -/
opaque freeNat : Nat → Nat → Nat
/-- A free element of Y (log 12). -/
opaque freeNum : Nat → Nat → Num
/-- A free filter history (log 12). -/
opaque freeHist : Nat → Chan → Hist
/-- A free generator state (log 12). -/
opaque freePrng : Nat → Prng
/-- A free dither state (log 12). -/
opaque freeDith : Nat → Dith

end Config

end Sys2Proof
end

