-- ==== Sys2Proof/Machine/Params.lean ====
section
/-! DEFINITION. The constants the document fixes and the decided values of the spec (00_scope.md R9, R10; log 26). -/

namespace Sys2Proof.Machine

/-- Width of the forward-jump field (R10, 30_encoding.md R108). -/
def jumpBits : Nat := 20

/-- Largest resolution (R10, 42_frame_parser.md R183). -/
def resMax : Int := 17

/-- The HDR_B value that announces a raw resolution (30_encoding.md R112). -/
def escHdr : Int := 4

/-- The DSCF_B value that announces a raw scalefactor (30_encoding.md R112). -/
def escDscf : Int := 8

/-- Samples discarded at the start of the stream (R9, 46_synthesis.md R295). -/
def synthDelay : Nat := 481

/-- Samples per channel per frame (R9). -/
def frameLen : Nat := 1152

/-- Least number of frames replayed before a seek target (R9, 47_commands.md R323); the host's duty, no rule of the block
reads it. -/
def replayMin : Nat := 32

/-- The sample rates of the format in hertz (R9); DESC_RATE carries one, no rule of the block reads it (10_state.md R36). -/
def rates : List Nat := [44100, 48000, 37800, 32000]

/-- Words of LIT, entries of TAB (R10, 10_state.md R67). -/
def litWords : Nat := 1024

/-- Elements of OUT (R10, 20_memory.md R73). -/
def outElems : Nat := 4608

/-- `Cfg.LayoutOf` at its decided value (10_state.md R35). -/
def layoutOf (tag : BitVec 8) : Option Layout :=
  if tag = 4 ∨ tag = 5 ∨ tag = 6 then some .a else if tag = 7 then some .b else none

/-- `Cfg.SHAPE_SEL` at its decided value (42_frame_parser.md R189, 43_layout_a.md R217, 44_layout_b.md R248). -/
def shapeSel : Layout → Bool
  | .a => false
  | .b => true

/-- `Cfg.RESBITS[r]`, r = 8 + i (30_encoding.md R114). -/
def resBits (i : Fin 10) : Nat := (Config.resBitsPred i).val + 1

/-- `Cfg.DOFF[r]`, r = 8 + i (30_encoding.md R114). -/
def dOff (i : Fin 10) : Int := (Config.dOff i).toNat

/-- The number of a channel, 0 = L and 1 = R. -/
def chanCode : Chan → Nat
  | .l => 0
  | .r => 1

/-- The number of a layout, 0 = A and 1 = B (10_state.md R35, R66). -/
def layoutCode : Layout → Nat
  | .a => 0
  | .b => 1

/-- Table ids (30_encoding.md R105). -/
def tblHdr : Fin 17 := 0
/-- Table id 1, the scalefactor-indicator alphabet. -/
def tblScfi : Fin 17 := 1
/-- Table id 2, the scalefactor deltas. -/
def tblDscf : Fin 17 := 2
/-- Table id 3 + 7v + (r - 1) of the quantizer alphabet Q[v][r]; `r` counts from 0 here (resolution `r + 1`). -/
def tblQ (v : Bool) (r : Fin 7) : Fin 17 := ⟨3 + 7 * v.toNat + r.val, by have := Bool.toNat_le v; omega⟩

end Sys2Proof.Machine
end

