-- ==== Sys2Proof/Syntax.lean ====
section
/-! DEFINITION. Abstract syntax: one constructor per row of spec/opcode_table.json (30_encoding.md R122). An
instruction of level 2 carries its position in the frame, which is parser state, and its content: the unsigned value of
a RAW field (R106) or the matched entry of a HUF field (R107, 41_huffman.md R160). -/

namespace Sys2Proof

/-- A subband index n (00_scope.md R9). -/
abbrev Subband := Fin 32

/-- A segment index s (00_scope.md R9). -/
abbrev Segment := Fin 3

/-- A coefficient or slot index k (00_scope.md R9). -/
abbrev Slot := Fin 36

/-- An entry of a built table: codeword left-aligned in 32 bits, length, value (30_encoding.md R104). -/
structure Entry where
  codeLA : BitVec 32
  len    : BitVec 8
  value  : BitVec 16
  deriving DecidableEq, Repr, Inhabited

/-- The 49 instructions. -/
inductive Instr where
  /-- CMD op 0 (47_commands.md R311). -/
  | nop
  /-- CMD op 1 (R312). -/
  | build
  /-- CMD op 2 (R313). -/
  | openCmd
  /-- CMD op 3 (R314). -/
  | resync
  /-- CMD op 4 (R315). -/
  | decode
  /-- CMD op 5 (R316). -/
  | replay
  /-- CMD op 6 (R317). -/
  | setpos
  /-- CMD op 7 (R318). -/
  | seed
  /-- The forward-jump field j (42_frame_parser.md R181). -/
  | fwdjump (j : BitVec 20)
  /-- One coefficient field of resolution 8 (R193). -/
  | qfix8 (c : Chan) (n : Subband) (k : Slot) (v : Nat)
  /-- One coefficient field of resolution 9 (R193). -/
  | qfix9 (c : Chan) (n : Subband) (k : Slot) (v : Nat)
  /-- One coefficient field of resolution 10 (R193). -/
  | qfix10 (c : Chan) (n : Subband) (k : Slot) (v : Nat)
  /-- One coefficient field of resolution 11 (R193). -/
  | qfix11 (c : Chan) (n : Subband) (k : Slot) (v : Nat)
  /-- One coefficient field of resolution 12 (R193). -/
  | qfix12 (c : Chan) (n : Subband) (k : Slot) (v : Nat)
  /-- One coefficient field of resolution 13 (R193). -/
  | qfix13 (c : Chan) (n : Subband) (k : Slot) (v : Nat)
  /-- One coefficient field of resolution 14 (R193). -/
  | qfix14 (c : Chan) (n : Subband) (k : Slot) (v : Nat)
  /-- One coefficient field of resolution 15 (R193). -/
  | qfix15 (c : Chan) (n : Subband) (k : Slot) (v : Nat)
  /-- One coefficient field of resolution 16 (R193). -/
  | qfix16 (c : Chan) (n : Subband) (k : Slot) (v : Nat)
  /-- One coefficient field of resolution 17 (R193). -/
  | qfix17 (c : Chan) (n : Subband) (k : Slot) (v : Nat)
  /-- Resolution 0, zero width (R191). -/
  | qskip (c : Chan) (n : Subband)
  /-- Resolution -1, zero width, 36 draws (R192). -/
  | qnoise (c : Chan) (n : Subband)
  /-- Resolution symbol, layout A (43_layout_a.md R211). -/
  | resA (c : Chan) (n : Subband) (e : Entry)
  /-- Mid/side flag, layout A (R212). -/
  | msflagA (n : Subband) (m : Bool)
  /-- Scalefactor indicator symbol, layout A (R213). -/
  | scfiA (c : Chan) (n : Subband) (e : Entry)
  /-- Raw scalefactor, layout A (R214). -/
  | scfrawA (c : Chan) (n : Subband) (g : Segment) (v : BitVec 6)
  /-- Differential scalefactor, layout A (R215). -/
  | dscfA (c : Chan) (n : Subband) (g : Segment) (e : Entry)
  /-- Shaping selector, layout A (R217). -/
  | shapeA (c : Chan) (n : Subband) (v : Bool)
  /-- One coefficient symbol of resolution 1, layout A (R218). -/
  | q1A (c : Chan) (n : Subband) (k : Slot) (e : Entry)
  /-- One coefficient symbol of resolution 2, layout A (R219). -/
  | q2A (c : Chan) (n : Subband) (k : Slot) (e : Entry)
  /-- One coefficient symbol of resolution 3, layout A (R220). -/
  | q3A (c : Chan) (n : Subband) (k : Slot) (e : Entry)
  /-- One coefficient symbol of resolution 4, layout A (R221). -/
  | q4A (c : Chan) (n : Subband) (k : Slot) (e : Entry)
  /-- One coefficient symbol of resolution 5, layout A (R222). -/
  | q5A (c : Chan) (n : Subband) (k : Slot) (e : Entry)
  /-- One coefficient symbol of resolution 6, layout A (R223). -/
  | q6A (c : Chan) (n : Subband) (k : Slot) (e : Entry)
  /-- One coefficient symbol of resolution 7, layout A (R224). -/
  | q7A (c : Chan) (n : Subband) (k : Slot) (e : Entry)
  /-- Raw resolution of subband 0, layout B (44_layout_b.md R241). -/
  | res0B (c : Chan) (v : BitVec 4)
  /-- Resolution delta or escape, layout B, subband n >= 1 (R242). -/
  | resdB (c : Chan) (n : Subband) (e : Entry)
  /-- Escaped resolution, layout B (R243). -/
  | resxB (c : Chan) (n : Subband) (v : BitVec 4)
  /-- Mid/side flag, layout B (R244). -/
  | msflagB (n : Subband) (m : Bool)
  /-- Scalefactor indicator symbol, layout B (R245). -/
  | scfiB (c : Chan) (n : Subband) (e : Entry)
  /-- Scalefactor delta or escape, layout B (R246). -/
  | dscfB (c : Chan) (n : Subband) (g : Segment) (e : Entry)
  /-- Escaped scalefactor, layout B (R247). -/
  | scfxB (c : Chan) (n : Subband) (g : Segment) (v : BitVec 6)
  /-- Shaping selector, layout B (R248). -/
  | shapeB (c : Chan) (n : Subband) (v : Bool)
  /-- Symbol j of resolution 1, three coefficients, layout B (R249). -/
  | q1B (c : Chan) (n : Subband) (j : Fin 12) (e : Entry)
  /-- Symbol j of resolution 2, two coefficients, layout B (R250). -/
  | q2B (c : Chan) (n : Subband) (j : Fin 18) (e : Entry)
  /-- One coefficient symbol of resolution 3, layout B (R251). -/
  | q3B (c : Chan) (n : Subband) (k : Slot) (e : Entry)
  /-- One coefficient symbol of resolution 4, layout B (R252). -/
  | q4B (c : Chan) (n : Subband) (k : Slot) (e : Entry)
  /-- One coefficient symbol of resolution 5, layout B (R253). -/
  | q5B (c : Chan) (n : Subband) (k : Slot) (e : Entry)
  /-- One coefficient symbol of resolution 6, layout B (R254). -/
  | q6B (c : Chan) (n : Subband) (k : Slot) (e : Entry)
  /-- One coefficient symbol of resolution 7, layout B (R255). -/
  | q7B (c : Chan) (n : Subband) (k : Slot) (e : Entry)
  deriving DecidableEq, Repr, Inhabited

end Sys2Proof
end

