-- ==== Sys2Proof/WellFormed.lean ====
section
/-! DEFINITION. When an instruction's operands can stand in a bitstream (30_encoding.md R104, R106, R107, R111 to R115). -/

namespace Sys2Proof

/-- An entry BUILD can write: 1 <= LEN <= 14, no code bit right of the codeword, VALUE in -255..63
(30_encoding.md R102, R104, R111). -/
def Entry.wf (e : Entry) : Bool :=
  decide (1 ≤ e.len.toNat) && decide (e.len.toNat ≤ 14) &&
    decide (e.codeLA.toNat % 2 ^ (32 - e.len.toNat) = 0) &&
    decide (-255 ≤ e.value.toInt) && decide (e.value.toInt ≤ 63)

/-- A fixed-width coefficient field fits RESBITS[8 + i] bits (30_encoding.md R106, R114). -/
def qfixWf (i : Fin 10) (v : Nat) : Bool := decide (v < 2 ^ Machine.resBits i)

/-- A well-formed entry whose value lies in 0 .. hi: the tables BUILD requires a fixed COUNT and VOFF = 0 of
(41_huffman.md R152 e). -/
def Entry.wfBelow (e : Entry) (hi : Int) : Bool := e.wf && decide (0 ≤ e.value.toInt) && decide (e.value.toInt ≤ hi)

/-- Well-formedness of an instruction, one arm per constructor. -/
def Instr.wf : Instr → Bool
  | .nop => true
  | .build => true
  | .openCmd => true
  | .resync => true
  | .decode => true
  | .replay => true
  | .setpos => true
  | .seed => true
  | .fwdjump _ => true
  | .qfix8 _ _ _ v => qfixWf 0 v
  | .qfix9 _ _ _ v => qfixWf 1 v
  | .qfix10 _ _ _ v => qfixWf 2 v
  | .qfix11 _ _ _ v => qfixWf 3 v
  | .qfix12 _ _ _ v => qfixWf 4 v
  | .qfix13 _ _ _ v => qfixWf 5 v
  | .qfix14 _ _ _ v => qfixWf 6 v
  | .qfix15 _ _ _ v => qfixWf 7 v
  | .qfix16 _ _ _ v => qfixWf 8 v
  | .qfix17 _ _ _ v => qfixWf 9 v
  | .qskip _ _ => true
  | .qnoise _ _ => true
  | .resA _ _ e => e.wf
  | .msflagA _ _ => true
  | .scfiA _ _ e => e.wfBelow 7
  | .scfrawA _ _ _ _ => true
  | .dscfA _ _ _ e => e.wf
  | .shapeA _ _ _ => true
  | .q1A _ _ _ e => e.wf
  | .q2A _ _ _ e => e.wf
  | .q3A _ _ _ e => e.wf
  | .q4A _ _ _ e => e.wf
  | .q5A _ _ _ e => e.wf
  | .q6A _ _ _ e => e.wf
  | .q7A _ _ _ e => e.wf
  | .res0B _ _ => true
  | .resdB _ n e => decide (1 ≤ n.val) && e.wf
  | .resxB _ n _ => decide (1 ≤ n.val)
  | .msflagB _ _ => true
  | .scfiB _ _ e => e.wfBelow 3
  | .dscfB _ _ _ e => e.wf
  | .scfxB _ _ _ _ => true
  | .shapeB _ _ _ => true
  | .q1B _ _ _ e => e.wfBelow 26
  | .q2B _ _ _ e => e.wfBelow 24
  | .q3B _ _ _ e => e.wf
  | .q4B _ _ _ e => e.wf
  | .q5B _ _ _ e => e.wf
  | .q6B _ _ _ e => e.wf
  | .q7B _ _ _ e => e.wf

end Sys2Proof
end

