-- ==== Sys2Proof/Decode.lean ====
section
/-! DEFINITION. Decoding and encoding. A CMD word decodes by itself (30_encoding.md R101, R116). A bitstream field has
no tag: the parser state gives its format (R100), `Field`, and the upcoming stream bits its content (R106, R107, R118).
The encoder stands after the decoder. -/

namespace Sys2Proof

/-- Why an encoding is rejected. -/
inductive DecodeError where
  /-- CMD[3:0] in 8..15 (30_encoding.md R116). -/
  | reservedOp
  /-- CMD[31:4] not zero (R116). -/
  | upperBits
  /-- A RAW field of width 0 or above 20 (40_bitreader.md R132). -/
  | fieldWidth
  /-- Bit `i` of the field lies in a stream word whose fetch fails (40_bitreader.md R135). -/
  | readFail (i : Nat)
  /-- The table of a HUF field is absent (41_huffman.md R165). -/
  | tableAbsent
  /-- No codeword of the table is a prefix of the upcoming bits (41_huffman.md R165). -/
  | noCodeword
  deriving DecidableEq, Repr

/-- The command a word written to CMD stands for (30_encoding.md R101). -/
def decodeCmd (w : Word) : Except DecodeError Instr :=
  if w.toNat / 16 ≠ 0 then .error .upperBits
  else match w.toNat with
    | 0 => .ok .nop
    | 1 => .ok .build
    | 2 => .ok .openCmd
    | 3 => .ok .resync
    | 4 => .ok .decode
    | 5 => .ok .replay
    | 6 => .ok .setpos
    | 7 => .ok .seed
    | _ => .error .reservedOp

/-- One stream bit as the reader sees it: none when the fetch of its word fails (20_memory.md R80). -/
abbrev StreamBit := Option Bool

/-- GetBits after the width check (40_bitreader.md R131): `n` bits to go, `i` read, `v` so far. -/
def readBits : Nat → Nat → Nat → List StreamBit → Except DecodeError Nat
  | 0, _, v, _ => .ok v
  | n + 1, i, v, some b :: bs => readBits n (i + 1) (2 * v + b.toNat) bs
  | _ + 1, i, _, _ => .error (.readFail i)

/-- The content of a RAW(n) field (30_encoding.md R106, 40_bitreader.md R131, R132). -/
def decodeRaw (n : Nat) (bits : List StreamBit) : Except DecodeError Nat :=
  if n = 0 ∨ 20 < n then .error .fieldWidth else readBits n 0 0 bits

/-- PeekBits: bits of failing words and past the end read 0 (40_bitreader.md R133). -/
def peekBits : Nat → Nat → List StreamBit → Nat
  | 0, v, _ => v
  | n + 1, v, b :: bs => peekBits n (2 * v + (b.getD false).toNat) bs
  | n + 1, v, [] => peekBits n (2 * v) []

/-- The window width of a length class: FASTER 5, FAST 10, SLOW 14 (41_huffman.md R161 to R163); class 0 is no table. -/
def classWidth (c : BitVec 2) : Option Nat :=
  match c.toNat with
  | 0 => none
  | 1 => some 5
  | 2 => some 10
  | _ => some 14

/-- The codeword of an entry as a right-aligned number. -/
def Entry.code (e : Entry) : Nat := e.codeLA.toNat >>> (32 - e.len.toNat)

/-- Does the entry's codeword start the W-bit window `win`? (41_huffman.md R160, the set M) -/
def entryMatches (w win : Nat) (e : Entry) : Bool := win >>> (w - e.len.toNat) == e.code

/-- The first of the next `n` bits, counted from `i`, that cannot be read. -/
def firstFail : Nat → Nat → List StreamBit → Option Nat
  | 0, _, _ => none
  | n + 1, i, some _ :: bs => firstFail n (i + 1) bs
  | _ + 1, i, _ => some i

/-- A built table as HufDec sees it: its class (TCLS[1:0]) and its entries in TAB order. -/
structure Table where
  cls     : BitVec 2
  entries : List Entry
  deriving DecidableEq, Repr

/-- HufDec up to the advance of BP (41_huffman.md R160, R165, R166). M has at most one element for a prefix-free table
(log 24). -/
def decodeHuf (t : Table) (bits : List StreamBit) : Except DecodeError Entry :=
  match classWidth t.cls with
  | none => .error .tableAbsent
  | some w =>
    match t.entries.find? (entryMatches w (peekBits w 0 bits)) with
    | none => .error .noCodeword
    | some e =>
      match firstFail e.len.toNat 0 bits with
      | some i => .error (.readFail i)
      | none => .ok e

/-- The format of the field the parser state selects, and the instruction its content makes (30_encoding.md R100). -/
inductive Field where
  /-- Zero width: QSKIP and QNOISE (30_encoding.md R122). -/
  | zero (i : Instr)
  /-- RAW(n). -/
  | raw (n : Nat) (mk : Nat → Instr)
  /-- HUF of table (l, t). -/
  | huf (l : Layout) (t : Fin 17) (mk : Entry → Instr)

/-- The instruction at the head of the upcoming bits, given the format the parser state selects. -/
def decodeField (f : Field) (tables : Layout → Fin 17 → Table) (bits : List StreamBit) : Except DecodeError Instr :=
  match f with
  | .zero i => .ok i
  | .raw n mk => (decodeRaw n bits).map mk
  | .huf l t mk => (decodeHuf (tables l t) bits).map mk

/-! The encoder. -/

/-- What an instruction is written as: a CMD word, or a string of stream bits, first transmitted bit first. -/
inductive Code where
  | word (w : Word)
  | bits (bs : List Bool)
  deriving DecidableEq, Repr

/-- The n bits of a RAW(n) field, most significant first (30_encoding.md R106). -/
def rawCode : Nat → Nat → List Bool
  | 0, _ => []
  | n + 1, v => v.testBit n :: rawCode n v

/-- The codeword of an entry, first transmitted bit first (30_encoding.md R104, R107). -/
def entryCode (e : Entry) : List Bool := rawCode e.len.toNat e.code

/-- The encoding of every instruction (30_encoding.md R101, R106, R107). -/
def Instr.encode : Instr → Code
  | .nop => .word 0
  | .build => .word 1
  | .openCmd => .word 2
  | .resync => .word 3
  | .decode => .word 4
  | .replay => .word 5
  | .setpos => .word 6
  | .seed => .word 7
  | .fwdjump j => .bits (rawCode Machine.jumpBits j.toNat)
  | .qfix8 _ _ _ v => .bits (rawCode (Machine.resBits 0) v)
  | .qfix9 _ _ _ v => .bits (rawCode (Machine.resBits 1) v)
  | .qfix10 _ _ _ v => .bits (rawCode (Machine.resBits 2) v)
  | .qfix11 _ _ _ v => .bits (rawCode (Machine.resBits 3) v)
  | .qfix12 _ _ _ v => .bits (rawCode (Machine.resBits 4) v)
  | .qfix13 _ _ _ v => .bits (rawCode (Machine.resBits 5) v)
  | .qfix14 _ _ _ v => .bits (rawCode (Machine.resBits 6) v)
  | .qfix15 _ _ _ v => .bits (rawCode (Machine.resBits 7) v)
  | .qfix16 _ _ _ v => .bits (rawCode (Machine.resBits 8) v)
  | .qfix17 _ _ _ v => .bits (rawCode (Machine.resBits 9) v)
  | .qskip _ _ => .bits []
  | .qnoise _ _ => .bits []
  | .resA _ _ e => .bits (entryCode e)
  | .msflagA _ m => .bits (rawCode 1 m.toNat)
  | .scfiA _ _ e => .bits (entryCode e)
  | .scfrawA _ _ _ v => .bits (rawCode 6 v.toNat)
  | .dscfA _ _ _ e => .bits (entryCode e)
  | .shapeA _ _ v => .bits (rawCode 1 v.toNat)
  | .q1A _ _ _ e => .bits (entryCode e)
  | .q2A _ _ _ e => .bits (entryCode e)
  | .q3A _ _ _ e => .bits (entryCode e)
  | .q4A _ _ _ e => .bits (entryCode e)
  | .q5A _ _ _ e => .bits (entryCode e)
  | .q6A _ _ _ e => .bits (entryCode e)
  | .q7A _ _ _ e => .bits (entryCode e)
  | .res0B _ v => .bits (rawCode 4 v.toNat)
  | .resdB _ _ e => .bits (entryCode e)
  | .resxB _ _ v => .bits (rawCode 4 v.toNat)
  | .msflagB _ m => .bits (rawCode 1 m.toNat)
  | .scfiB _ _ e => .bits (entryCode e)
  | .dscfB _ _ _ e => .bits (entryCode e)
  | .scfxB _ _ _ v => .bits (rawCode 6 v.toNat)
  | .shapeB _ _ v => .bits (rawCode 1 v.toNat)
  | .q1B _ _ _ e => .bits (entryCode e)
  | .q2B _ _ _ e => .bits (entryCode e)
  | .q3B _ _ _ e => .bits (entryCode e)
  | .q4B _ _ _ e => .bits (entryCode e)
  | .q5B _ _ _ e => .bits (entryCode e)
  | .q6B _ _ _ e => .bits (entryCode e)
  | .q7B _ _ _ e => .bits (entryCode e)

/-- The format an instruction of level 2 is written in (the opcode table's column "format"); `v` is the shaping variant
in force. None for the commands. -/
def Instr.field (v : Bool) : Instr → Option Field
  | .nop => none
  | .build => none
  | .openCmd => none
  | .resync => none
  | .decode => none
  | .replay => none
  | .setpos => none
  | .seed => none
  | .fwdjump _ => some (.raw Machine.jumpBits fun x => .fwdjump (.ofNat 20 x))
  | .qfix8 c n k _ => some (.raw (Machine.resBits 0) (.qfix8 c n k))
  | .qfix9 c n k _ => some (.raw (Machine.resBits 1) (.qfix9 c n k))
  | .qfix10 c n k _ => some (.raw (Machine.resBits 2) (.qfix10 c n k))
  | .qfix11 c n k _ => some (.raw (Machine.resBits 3) (.qfix11 c n k))
  | .qfix12 c n k _ => some (.raw (Machine.resBits 4) (.qfix12 c n k))
  | .qfix13 c n k _ => some (.raw (Machine.resBits 5) (.qfix13 c n k))
  | .qfix14 c n k _ => some (.raw (Machine.resBits 6) (.qfix14 c n k))
  | .qfix15 c n k _ => some (.raw (Machine.resBits 7) (.qfix15 c n k))
  | .qfix16 c n k _ => some (.raw (Machine.resBits 8) (.qfix16 c n k))
  | .qfix17 c n k _ => some (.raw (Machine.resBits 9) (.qfix17 c n k))
  | .qskip c n => some (.zero (.qskip c n))
  | .qnoise c n => some (.zero (.qnoise c n))
  | .resA c n _ => some (.huf .a Machine.tblHdr (.resA c n))
  | .msflagA n _ => some (.raw 1 fun x => .msflagA n (x.testBit 0))
  | .scfiA c n _ => some (.huf .a Machine.tblScfi (.scfiA c n))
  | .scfrawA c n g _ => some (.raw 6 fun x => .scfrawA c n g (.ofNat 6 x))
  | .dscfA c n g _ => some (.huf .a Machine.tblDscf (.dscfA c n g))
  | .shapeA c n _ => some (.raw 1 fun x => .shapeA c n (x.testBit 0))
  | .q1A c n k _ => some (.huf .a (Machine.tblQ v 0) (.q1A c n k))
  | .q2A c n k _ => some (.huf .a (Machine.tblQ v 1) (.q2A c n k))
  | .q3A c n k _ => some (.huf .a (Machine.tblQ v 2) (.q3A c n k))
  | .q4A c n k _ => some (.huf .a (Machine.tblQ v 3) (.q4A c n k))
  | .q5A c n k _ => some (.huf .a (Machine.tblQ v 4) (.q5A c n k))
  | .q6A c n k _ => some (.huf .a (Machine.tblQ v 5) (.q6A c n k))
  | .q7A c n k _ => some (.huf .a (Machine.tblQ v 6) (.q7A c n k))
  | .res0B c _ => some (.raw 4 fun x => .res0B c (.ofNat 4 x))
  | .resdB c n _ => some (.huf .b Machine.tblHdr (.resdB c n))
  | .resxB c n _ => some (.raw 4 fun x => .resxB c n (.ofNat 4 x))
  | .msflagB n _ => some (.raw 1 fun x => .msflagB n (x.testBit 0))
  | .scfiB c n _ => some (.huf .b Machine.tblScfi (.scfiB c n))
  | .dscfB c n g _ => some (.huf .b Machine.tblDscf (.dscfB c n g))
  | .scfxB c n g _ => some (.raw 6 fun x => .scfxB c n g (.ofNat 6 x))
  | .shapeB c n _ => some (.raw 1 fun x => .shapeB c n (x.testBit 0))
  | .q1B c n j _ => some (.huf .b (Machine.tblQ v 0) (.q1B c n j))
  | .q2B c n j _ => some (.huf .b (Machine.tblQ v 1) (.q2B c n j))
  | .q3B c n k _ => some (.huf .b (Machine.tblQ v 2) (.q3B c n k))
  | .q4B c n k _ => some (.huf .b (Machine.tblQ v 3) (.q4B c n k))
  | .q5B c n k _ => some (.huf .b (Machine.tblQ v 4) (.q5B c n k))
  | .q6B c n k _ => some (.huf .b (Machine.tblQ v 5) (.q6B c n k))
  | .q7B c n k _ => some (.huf .b (Machine.tblQ v 6) (.q7B c n k))

/-- The host's question: the instruction the decoder reads from an opcode-table row's bits. A CMD word has 32 bits. Of
the fields only FWDJUMP has a fixed width of its own (RAW(20), three bytes): its word is the field's value (log 33). -/
def decodeTableWord (nbits w : Nat) : Option Instr :=
  if nbits = 32 then (decodeCmd (.ofNat 32 w)).toOption
  else if nbits = 24 ∧ w < 2 ^ Machine.jumpBits then
    (decodeField (.raw Machine.jumpBits fun x => .fwdjump (.ofNat 20 x)) (fun _ _ => ⟨0, []⟩)
      ((rawCode Machine.jumpBits w).map some)).toOption
  else none

end Sys2Proof
end

