-- ==== Sys2Proof/Machine/Bank.lean ====
section
/-! DEFINITION. Register files indexed by channel and subband (10_state.md section 4). -/

namespace Sys2Proof.Machine

/-- One value per channel. -/
structure PerChan (α : Type) where
  l : α
  r : α
  deriving DecidableEq, Repr, Inhabited

/-- One value per channel and subband: the shape of Res, SCFI, DFLAG, SCF, LastSCF and Q (10_state.md R54 to R60). -/
abbrev Bank (α : Type) := PerChan (Vector α 32)

/-- The value of one channel. -/
def chanGet {α : Type} (p : PerChan α) : Chan → α
  | .l => p.l
  | .r => p.r

/-- Replace the value of one channel. -/
def chanSet {α : Type} (p : PerChan α) (c : Chan) (x : α) : PerChan α :=
  match c with
  | .l => { p with l := x }
  | .r => { p with r := x }

/-- Read element [c][n]. -/
def bankGet {α : Type} (b : Bank α) (c : Chan) (n : Subband) : α := (chanGet b c)[n]

/-- Write element [c][n]. -/
def bankSet {α : Type} (b : Bank α) (c : Chan) (n : Subband) (x : α) : Bank α :=
  chanSet b c ((chanGet b c).set n x)

/-- Every element the same. -/
def bankFill {α : Type} (x : α) : Bank α := ⟨Vector.replicate 32 x, Vector.replicate 32 x⟩

/-- Every element given by a function of its place. -/
def bankOf {α : Type} (f : Chan → Subband → α) : Bank α := ⟨Vector.ofFn (f .l), Vector.ofFn (f .r)⟩

end Sys2Proof.Machine
end

