-- ==== Sys2Proof/Machine/Memory.lean ====
section
/-! DEFINITION. Byte memories as lists of cells in one canonical form: addresses strictly rising. An unlisted address
has no value; an operation that reads it gets a free byte (log 9). 20_memory.md R70 to R76. -/

namespace Sys2Proof.Machine

/-- The listed bytes of a memory. -/
abbrev Memory := List Host.Cell

/-- The canonical form: addresses strictly rising (no listed byte equals "no value", what an unlisted address holds). -/
abbrev Memory.wf (m : Memory) : Prop := m.Pairwise fun x y => x.1 < y.1

/-- The byte at an address, if listed. -/
def memGet (m : Memory) (a : Nat) : Option Byte := (m.find? fun x => x.1 == a).map (·.2)

/-- Bytes at consecutive addresses. -/
def memBlock (a : Nat) : List Byte → Memory
  | [] => []
  | b :: bs => (a, b) :: memBlock (a + 1) bs

/-- MemWrite: the bytes `bs` at a, a + 1, ... (20_memory.md R74). -/
def memWrite (m : Memory) (a : Nat) (bs : List Byte) : Memory :=
  m.filter (fun x => decide (x.1 < a)) ++ memBlock a bs ++ m.filter (fun x => decide (a + bs.length ≤ x.1))

/-- A memory whose unlisted bytes are free values: the epoch names which free values (log 9). -/
structure Ram where
  cells : Memory
  epoch : Nat
  deriving DecidableEq, Repr

/-- One byte of a memory. -/
def ramByte (sp : Space) (m : Ram) (a : Nat) : Byte := (memGet m.cells a).getD (Config.unwritten sp m.epoch a)

/-- MemRead: the n bytes at a, a + 1, ... in address order (20_memory.md R74). -/
def ramRead (sp : Space) (m : Ram) (a n : Nat) : List Byte := (List.range n).map fun i => ramByte sp m (a + i)

/-- A 32-bit unit, least significant byte at the lowest address (20_memory.md R75, R76). -/
def ramWord (sp : Space) (m : Ram) (a : Nat) : Word :=
  ramByte sp m (a + 3) ++ ramByte sp m (a + 2) ++ ramByte sp m (a + 1) ++ ramByte sp m a

/-- The bytes of a 32-bit unit in address order (20_memory.md R76). -/
def wordBytes (w : Word) : List Byte :=
  [w.extractLsb' 0 8, w.extractLsb' 8 8, w.extractLsb' 16 8, w.extractLsb' 24 8]

/-- Write bytes. -/
def ramWrite (m : Ram) (a : Nat) (bs : List Byte) : Ram := { m with cells := memWrite m.cells a bs }

/-- The whole memory becomes unspecified: nothing is listed and the unlisted bytes are new free values. -/
def ramForget (m : Ram) : Ram := { cells := [], epoch := m.epoch + 1 }

end Sys2Proof.Machine
end

