-- ==== Sys2Proof/Machine/State.lean ====
section
/-! DEFINITION. All the state the spec gives the machine (10_state.md), the model's own fields beside it, the reasons a
step can stop, and the machine right after hardware reset (10_state.md R69). -/

namespace Sys2Proof.Machine

/-- STATUS (10_state.md R33); its word with the bit positions is `statusWord` of Flags. -/
structure Status where
  busy        : Bool
  tablesReady : Bool
  opened      : Bool
  frameValid  : Bool
  eos         : Bool
  warm        : Bool
  errIo       : Bool
  errVersion  : Bool
  errTable    : Bool
  errCmd      : Bool
  errRes      : Bool
  errDesc     : Bool
  deriving DecidableEq, Repr, Inhabited

/-- PHASE, the sequencer state of QSM (10_state.md R53). -/
inductive Phase where
  | idle | header | indicator | scalefactor | samples | requant | synth
  deriving DecidableEq, Repr, Inhabited

/-- The host's registers; reserved bits are not stored (10_state.md R31, R34 to R45, R49 to R51). -/
structure Regs where
  errInfo       : Word
  descVersion   : BitVec 8
  descRate      : Word
  descMaxband   : BitVec 5
  descFrames    : Word
  descGapless   : Bool
  descLastvalid : BitVec 11
  descHdroff    : Word
  descMs        : Bool
  streamLen     : Word
  seed          : Word
  outfmt        : Bool
  posTargetLo   : Word
  posTargetHi   : Word
  frameTarget   : Word
  samplesOut    : Word
  deriving DecidableEq, Repr, Inhabited

/-- The copies latched by OPEN (10_state.md R35 to R45, R68 c). -/
structure Latched where
  layout    : Layout
  maxBand   : BitVec 5
  frames    : Word
  gapless   : Bool
  lastValid : BitVec 11
  hdrOff    : Word
  msEnable  : Bool
  streamLen : Word
  outFixed  : Bool
  deriving DecidableEq, Repr, Inhabited

/-- DecoderState (10_state.md R30 group 3): the position counters, the arrays and the carry state. WARM is STATUS bit 5
(R65). BITPOS is `bp` (R47, R52). -/
structure Decoder where
  bp         : BitVec 64
  frameCtr   : Word
  bitsUsed   : Word
  /-- the hidden MaxUsed (R68 e) -/
  maxUsed    : BitVec 5
  /-- the register MAXUSED (R49) -/
  maxUsedReg : BitVec 5
  res        : Bank (BitVec 8)
  ms         : Vector Bool 32
  scf        : Bank (Vector (BitVec 8) 3)
  lastScf    : Bank (BitVec 8)
  /-- Y[c][k][n] (R61) -/
  y          : PerChan (Vector (Vector Num 32) 36)
  /-- HistL, HistR (R62) -/
  hist       : PerChan Hist
  prng       : Prng
  dith       : Dith
  deriving DecidableEq, Repr

/-- The transient Frame data (10_state.md R30 group 4, 42_frame_parser.md R198). -/
structure Frame where
  fwdJump    : BitVec 20
  frameStart : BitVec 64
  scfi       : Bank (BitVec 2)
  dflag      : Bank Bool
  q          : Bank (Vector (BitVec 32) 36)
  deriving DecidableEq, Repr

/-- Where the sequencer stands: the field or internal phase that comes next. The MODEL's own state: the loop variables
of the pseudocode of 43_layout_a.md R225, 44_layout_b.md R257, 42_frame_parser.md R188 and 47_commands.md R315 (log 1). -/
inductive Point where
  /-- no command runs -/
  | idle
  /-- the frame header field (47_commands.md R321) -/
  | fwdJump
  /-- the forward-jump field of the extra frame (46_synthesis.md R298) -/
  | extraJump
  /-- the resolution of (c, n) -/
  | res (c : Chan) (n : Subband)
  /-- the raw resolution after an escape -/
  | resX (c : Chan) (n : Subband)
  /-- the mid/side flag of n -/
  | ms (n : Subband)
  /-- the scalefactor indicator of (c, n) -/
  | scfi (c : Chan) (n : Subband)
  /-- the index of segment g of (c, n) -/
  | scf (c : Chan) (n : Subband) (g : Segment)
  /-- the raw index after an escape -/
  | scfX (c : Chan) (n : Subband) (g : Segment)
  /-- the shaping selector of (c, n) -/
  | shape (c : Chan) (n : Subband)
  /-- coefficient k of (c, n) is the next to be written -/
  | coef (c : Chan) (n : Subband) (k : Slot)
  /-- Requantize (45_requantizer.md R270) -/
  | requant
  /-- SynthFrame and what follows it (46_synthesis.md R292 to R300) -/
  | synth
  deriving DecidableEq, Repr, Inhabited

/-- The four registers ExtraPass saves (46_synthesis.md R298). -/
structure Saved where
  fwdJump    : BitVec 20
  bitsUsed   : Word
  maxUsedReg : BitVec 5
  frameValid : Bool
  deriving DecidableEq, Repr, Inhabited

/-- The command in progress: the hidden temporaries of the pseudocode. The MODEL's own state (log 1). -/
structure Run where
  point  : Point
  /-- REPLAY (true) or DECODE (false) -/
  replay : Bool
  /-- inside ExtraPass -/
  extra  : Bool
  /-- the shaping variant v of the subband-channel being read (42_frame_parser.md R189) -/
  shape  : Bool
  /-- first raw sample emitted (46_synthesis.md R295) -/
  lo     : Nat
  /-- end of the raw samples emitted (46_synthesis.md R296, R297) -/
  hi     : Nat
  save   : Saved
  /-- raw[c][0 ..] (46_synthesis.md R292) -/
  raw    : PerChan (List Num)
  deriving DecidableEq, Repr

/-- The windows the host can address (20_memory.md R79). -/
inductive Window where
  | reg | lit | tab | out
  deriving DecidableEq, Repr, Inhabited

/-- One act of the block's environment (log 5). -/
inductive HostAct where
  /-- a bus write of `width` bits at byte offset `addr` of a window -/
  | write (w : Window) (addr width : Nat) (v : Word)
  /-- a bus read; the data goes to `hostData` -/
  | read (w : Window) (addr width : Nat)
  /-- a byte of STREAM is made to hold `b` (70_reset_and_hazards.md R363 step 3) -/
  | putStream (addr : Nat) (b : Byte)
  /-- the reset input is asserted (70_reset_and_hazards.md R360) -/
  | reset
  deriving DecidableEq, Repr

/-- A host act, and whether the host performs it at once (`now`) or waits until STATUS.BUSY = 0 as R310 asks. -/
structure HostOp where
  now : Bool
  act : HostAct
  deriving DecidableEq, Repr

/-- The machine. -/
structure State where
  status      : Status
  regs        : Regs
  phase       : Phase
  latched     : Latched
  dec         : Decoder
  frame       : Frame
  /-- TDIR[l][t] at index 17 l + t, its 25 named bits (10_state.md R66) -/
  tdir        : Vector (BitVec 25) 34
  /-- TCLS[l][t] at index 17 l + t, its 6 named bits (10_state.md R66) -/
  tcls        : Vector (BitVec 6) 34
  lit         : Ram
  tab         : Ram
  out         : Ram
  /-- the compressed stream, owned by the host (20_memory.md R70) -/
  stream      : Ram
  /-- Cfg.StreamFault as data: the word indices whose fetch fails (40_bitreader.md R138, log 8) -/
  streamFault : List Nat
  /-- none: bits are read from STREAM. Some occasion k: the host changed STREAM while a stream was open, and every bit is a
  free value until OPEN or SETPOS discards what was buffered (70_reset_and_hazards.md R374, 20_memory.md R84, log 21) -/
  streamDirty : Option Nat
  run         : Run
  /-- the environment's acts still to come (log 5) -/
  host        : List HostOp
  /-- the data the host's reads returned, newest first (log 5) -/
  hostData    : List Word
  /-- names the next free values (log 35) -/
  freeCtr     : Nat
  deriving DecidableEq, Repr

/-- Stops with a fault. -/
inductive Fault where
  /-- Raised by a host access at or beyond the end of its window (20_memory.md R71 to R73, R79): the address does not
  exist. Safe. -/
  | noSuchAddress
  /-- Raised by the fetch at a SAMPLES point whose resolution is outside -1..RES_MAX: R190 says no such value reaches
  there, no run from reset does. Safe. -/
  | reservedResolution
  /-- Raised by a step with BUSY = 1 and an idle sequencer: no run from reset reaches such a state. Safe. -/
  | busyWithoutCommand
  deriving DecidableEq, Repr

/-- Stops with a refusal. -/
inductive Refusal where
  /-- An instruction that has no meaning yet; raised by exec's arms only. Safe. -/
  | notModelled (mnemonic : String)
  /-- A host access that is not 32 bits wide at a multiple of 4: "the model refuses it (it has no rule)" (20_memory.md
  R77, 93 U7). Safe. -/
  | hostAccessWidth
  /-- A host access other than a STATUS read or a CMD write while BUSY = 1 (70_reset_and_hazards.md R370, 93 U6). Safe. -/
  | hostAccessWhileBusy
  /-- GetBits(n) with n = 0 or n > 20 (40_bitreader.md R132); no field of the parser asks for one. Safe. -/
  | fieldWidth
  deriving DecidableEq, Repr

/-- The outcome of a meaning. -/
abbrev Result := Host.Outcome State Fault Refusal

/-- DecoderState at hardware reset (10_state.md R69). -/
def Decoder.reset : Decoder where
  bp := 0
  frameCtr := 0
  bitsUsed := 0
  maxUsed := 0
  maxUsedReg := 0
  res := bankFill 0
  ms := Vector.replicate 32 false
  scf := bankFill (Vector.replicate 3 0)
  lastScf := bankFill 0
  y := ⟨Vector.replicate 36 (Vector.replicate 32 Config.zero), Vector.replicate 36 (Vector.replicate 32 Config.zero)⟩
  hist := ⟨Config.hist0, Config.hist0⟩
  prng := Config.prngInit 0
  dith := Config.dith0

/-- Frame data at hardware reset: FWD_JUMP is 0 by R69, the rest is unspecified and takes the model's value 0 (log 11). -/
def Frame.reset : Frame where
  fwdJump := 0
  frameStart := 0
  scfi := bankFill 0
  dflag := bankFill false
  q := bankFill (Vector.replicate 36 0)

/-- No command in progress (log 11). -/
def Run.reset : Run where
  point := .idle
  replay := false
  extra := false
  shape := false
  lo := 0
  hi := 0
  save := ⟨0, 0, 0, false⟩
  raw := ⟨[], []⟩

/-- The machine right after hardware reset (10_state.md R69, 70_reset_and_hazards.md R360, R361). The latched copies are
unspecified and take the model's values (log 10). -/
def State.reset : State where
  status := ⟨false, false, false, false, false, false, false, false, false, false, false, false⟩
  regs := ⟨0, 0, 0, 0, 0, false, 0, 0, false, 0, 0, false, 0, 0, 0, 0⟩
  phase := .idle
  latched := ⟨.a, 0, 0, false, 0, 0, false, 0, false⟩
  dec := Decoder.reset
  frame := Frame.reset
  tdir := Vector.replicate 34 0
  tcls := Vector.replicate 34 0
  lit := ⟨[], 0⟩
  tab := ⟨[], 0⟩
  out := ⟨[], 0⟩
  stream := ⟨[], 0⟩
  streamFault := []
  streamDirty := none
  run := Run.reset
  host := []
  hostData := []
  freeCtr := 0

end Sys2Proof.Machine
end

