-- ==== Sys2Proof/Machine/Ops.lean ====
section
/-! DEFINITION. The named operations over registers, memories and the stream that every meaning uses, and raising an
error (60_exceptions.md R340). There is no return from one: the block has no handler and no saved program counter
(R339); the host recovers with commands (R342). -/

namespace Sys2Proof.Machine

/-! The stream (20_memory.md R75, R80; 40_bitreader.md R131 to R138). -/

/-- WordFails(w) (40_bitreader.md R138). -/
def wordFails (s : State) (w : Nat) : Bool :=
  decide (s.latched.streamLen.toNat ≤ s.latched.hdrOff.toNat + 4 * w + 3) || s.streamFault.contains w

/-- Stream word W(w), little-endian (20_memory.md R75). -/
def streamWord (s : State) (w : Nat) : Word := ramWord .stream s.stream (s.latched.hdrOff.toNat + 4 * w)

/-- The value of stream bit p: bit 31 - (p mod 32) of W(p div 32) (20_memory.md R75), or a free value after the host
changed STREAM under the open stream (70_reset_and_hazards.md R374, log 21). -/
def bitValue (s : State) (p : Nat) : Bool :=
  match s.streamDirty with
  | none => (streamWord s (p / 32)).getLsbD (31 - p % 32)
  | some k => Config.staleBit k s.dec.bp.toNat p

/-- Stream bit p; none when the fetch of its word fails (20_memory.md R80). -/
def streamBit (s : State) (p : Nat) : StreamBit := if wordFails s (p / 32) then none else some (bitValue s p)

/-- The next n stream bits at BP. -/
def upcoming (s : State) (n : Nat) : List StreamBit := (List.range n).map fun i => streamBit s (s.dec.bp.toNat + i)

/-- BP advances by the bits a field consumed; nothing else moves it but OPEN and SETPOS (10_state.md R52). -/
def advance (s : State) (n : Nat) : State := { s with dec.bp := s.dec.bp + BitVec.ofNat 64 n }

/-! Built tables (10_state.md R66, R67; 30_encoding.md R103, R104). -/

/-- The place 17 l + t of table (l, t) in TDIR and TCLS (10_state.md R66). -/
def tblIndex (l : Layout) (t : Fin 17) : Fin 34 :=
  match l with
  | .a => ⟨t.val, by omega⟩
  | .b => ⟨17 + t.val, by omega⟩

/-- BASE of a TDIR word. -/
def tdirBase (d : BitVec 25) : Nat := (d.extractLsb' 0 10).toNat

/-- COUNT of a TDIR word. -/
def tdirCount (d : BitVec 25) : Nat := (d.extractLsb' 10 7).toNat

/-- VOFF of a TDIR word. -/
def tdirVoff (d : BitVec 25) : Nat := (d.extractLsb' 17 8).toNat

/-- TDIR[l][t]. -/
def tdirOf (s : State) (l : Layout) (t : Fin 17) : BitVec 25 := s.tdir[tblIndex l t]

/-- TCLS[l][t]. -/
def tclsOf (s : State) (l : Layout) (t : Fin 17) : BitVec 6 := s.tcls[tblIndex l t]

/-- The entry at index i of TAB (30_encoding.md R104). -/
def tabEntry (tab : Ram) (i : Nat) : Entry where
  codeLA := ramWord .tab tab (8 * i)
  len := ramByte .tab tab (8 * i + 4)
  value := ramByte .tab tab (8 * i + 7) ++ ramByte .tab tab (8 * i + 6)

/-- The eight bytes of an entry in TAB: word 0, then word 1 (30_encoding.md R104). -/
def entryBytes (e : Entry) : List Byte :=
  wordBytes e.codeLA ++ [e.len, 0, e.value.extractLsb' 0 8, e.value.extractLsb' 8 8]

/-- Built table (l, t): entries TAB[BASE] .. TAB[BASE + COUNT - 1] (10_state.md R67). -/
def builtTable (s : State) (l : Layout) (t : Fin 17) : Table where
  cls := (tclsOf s l t).extractLsb' 0 2
  entries := (List.range (tdirCount (tdirOf s l t))).map fun j => tabEntry s.tab (tdirBase (tdirOf s l t) + j)

/-- The number 256 l + t that ERR_INFO records for a table (60_exceptions.md R335). -/
def tableNumber (l : Layout) (t : Fin 17) : Nat := 256 * layoutCode l + t.val

/-! Register files. -/

/-- Res[c][n] (10_state.md R54). -/
def resOf (s : State) (c : Chan) (n : Subband) : BitVec 8 := bankGet s.dec.res c n

/-- Res[c][n] <- r. -/
def setRes (s : State) (c : Chan) (n : Subband) (r : BitVec 8) : State :=
  { s with dec.res := bankSet s.dec.res c n r }

/-- MS[n] <- m (10_state.md R55). -/
def setMs (s : State) (n : Subband) (m : Bool) : State := { s with dec.ms := s.dec.ms.set n m }

/-- SCFI[c][n] <- v (10_state.md R56). -/
def setScfi (s : State) (c : Chan) (n : Subband) (v : BitVec 2) : State :=
  { s with frame.scfi := bankSet s.frame.scfi c n v }

/-- DFLAG[c][n] <- b (10_state.md R56). -/
def setDflag (s : State) (c : Chan) (n : Subband) (b : Bool) : State :=
  { s with frame.dflag := bankSet s.frame.dflag c n b }

/-- SCF[c][n] <- the triple t (10_state.md R57). -/
def setScf (s : State) (c : Chan) (n : Subband) (t : Vector (BitVec 8) 3) : State :=
  { s with dec.scf := bankSet s.dec.scf c n t }

/-- LastSCF[c][n] <- v (10_state.md R58). -/
def setLastScf (s : State) (c : Chan) (n : Subband) (v : BitVec 8) : State :=
  { s with dec.lastScf := bankSet s.dec.lastScf c n v }

/-- Q[c][n][k] (10_state.md R60). -/
def qOf (s : State) (c : Chan) (n : Subband) (k : Slot) : BitVec 32 := (bankGet s.frame.q c n)[k]

/-- Q[c][n][k] <- v. -/
def setQ (s : State) (c : Chan) (n : Subband) (k : Slot) (v : BitVec 32) : State :=
  { s with frame.q := bankSet s.frame.q c n ((bankGet s.frame.q c n).set k v) }

/-- The shaping variant v of the subband-channel being read (42_frame_parser.md R189). -/
def setShape (s : State) (v : Bool) : State := { s with run.shape := v }

/-! Commands (47_commands.md R310, R319). -/

/-- A legal command clears STATUS.ERR_CMD when it starts (47_commands.md R310). -/
def legal (s : State) : State := { s with status.errCmd := false }

/-- IllegalCommand: a refusal by the block, no other state changes (47_commands.md R319, 60_exceptions.md R336). -/
def illegal (s : State) (w : Word) : State := { s with status.errCmd := true, regs.errInfo := w }

/-! Free values and raising an error. -/

/-- DecoderState with every register a free value (60_exceptions.md R340 (5), log 12). -/
def freeDecoder (k : Nat) : Decoder where
  bp := .ofNat 64 (Config.freeNat k 0)
  frameCtr := .ofNat 32 (Config.freeNat k 1)
  bitsUsed := .ofNat 32 (Config.freeNat k 2)
  maxUsed := .ofNat 5 (Config.freeNat k 3)
  maxUsedReg := .ofNat 5 (Config.freeNat k 4)
  res := bankOf fun c n => .ofNat 8 (Config.freeNat k (100 + 2 * n.val + chanCode c))
  ms := Vector.ofFn fun n => (Config.freeNat k (200 + n.val)).testBit 0
  scf := bankOf fun c n => Vector.ofFn fun g => .ofNat 8 (Config.freeNat k (300 + 6 * n.val + 3 * chanCode c + g.val))
  lastScf := bankOf fun c n => .ofNat 8 (Config.freeNat k (500 + 2 * n.val + chanCode c))
  y := ⟨Vector.ofFn fun i => Vector.ofFn fun n => Config.freeNum k (64 * i.val + 2 * n.val),
    Vector.ofFn fun i => Vector.ofFn fun n => Config.freeNum k (64 * i.val + 2 * n.val + 1)⟩
  hist := ⟨Config.freeHist k .l, Config.freeHist k .r⟩
  prng := Config.freePrng k
  dith := Config.freeDith k

/-- Frame data with every item a free value (60_exceptions.md R340 (5), log 12). -/
def freeFrame (k : Nat) : Frame where
  fwdJump := .ofNat 20 (Config.freeNat k 5)
  frameStart := .ofNat 64 (Config.freeNat k 6)
  scfi := bankOf fun c n => .ofNat 2 (Config.freeNat k (600 + 2 * n.val + chanCode c))
  dflag := bankOf fun c n => (Config.freeNat k (700 + 2 * n.val + chanCode c)).testBit 0
  q := bankOf fun c n => Vector.ofFn fun i =>
    .ofNat 32 (Config.freeNat k (1000 + 72 * n.val + 36 * chanCode c + i.val))

/-- The latched copies, every one a free value (47_commands.md R313, log 14). -/
def freeLatched (k : Nat) : Latched where
  layout := if (Config.freeNat k 7).testBit 0 then .b else .a
  maxBand := .ofNat 5 (Config.freeNat k 8)
  frames := .ofNat 32 (Config.freeNat k 9)
  gapless := (Config.freeNat k 10).testBit 0
  lastValid := .ofNat 11 (Config.freeNat k 11)
  hdrOff := .ofNat 32 (Config.freeNat k 12)
  msEnable := (Config.freeNat k 13).testBit 0
  streamLen := .ofNat 32 (Config.freeNat k 14)
  outFixed := (Config.freeNat k 15).testBit 0

/-- The raised errors (60_exceptions.md R330); TableInvalid has two causes, (a) BUILD and (b) HufDec (R335). -/
inductive RaiseKind where
  | readError | badVersion | tableInvalidBuild | tableInvalidParse | resRange | badDescriptor
  deriving DecidableEq, Repr

/-- Does the error close the stream? (60_exceptions.md R330, R340 (5)) -/
def raiseFatal : RaiseKind → Bool
  | .readError => true
  | .badVersion => false
  | .tableInvalidBuild => false
  | .tableInvalidParse => true
  | .resRange => true
  | .badDescriptor => false

/-- The STATUS bit of the error (60_exceptions.md R330). -/
def raiseStatus (k : RaiseKind) (t : Status) : Status :=
  match k with
  | .readError => { t with errIo := true }
  | .badVersion => { t with errVersion := true }
  | .tableInvalidBuild => { t with errTable := true }
  | .tableInvalidParse => { t with errTable := true }
  | .resRange => { t with errRes := true }
  | .badDescriptor => { t with errDesc := true }

/-- A fatal error closes the stream and leaves DecoderState and the frame unspecified (60_exceptions.md R340 (5)). That the
latched copies keep their values, where 10_state.md R68 and 93 U3 leave them open while OPEN = 0, is the model's choice
(DESIGN CHOICE, log 40). -/
def closeStream (s : State) : State :=
  { s with
    status.opened := false
    dec := freeDecoder s.freeCtr
    frame := freeFrame s.freeCtr
    freeCtr := s.freeCtr + 1 }

/-- RAISE, the one shared operation (60_exceptions.md R340): the STATUS bit, ERR_INFO, SAMPLES_OUT <- 0, for a fatal
error the stream closed, OUT unspecified (70_reset_and_hazards.md R375, log 13), BUSY <- 0. PHASE keeps its value. -/
def raise (k : RaiseKind) (info : Nat) (s : State) : State :=
  let t := if raiseFatal k then closeStream s else s
  { t with
    status := raiseStatus k { t.status with busy := false }
    regs.errInfo := .ofNat 32 info
    regs.samplesOut := 0
    out := ramForget t.out
    run := Run.reset }

/-- What a failing OPEN leaves unspecified: the latched copies and DecoderState (47_commands.md R313, log 14). -/
def forgetStream (s : State) : State :=
  { s with latched := freeLatched s.freeCtr, dec := freeDecoder s.freeCtr, freeCtr := s.freeCtr + 1 }

end Sys2Proof.Machine
end

