-- ==== Sys2Proof/Machine/Flags.lean ====
section
/-! DEFINITION. The status words and the values computed for flags: STATUS (10_state.md R33), PHASE (R53), MaxUsed
(42_frame_parser.md R184), FRAME_VALID (R195), the trim bounds (46_synthesis.md R295 to R297). -/

namespace Sys2Proof.Machine

/-- Bit i of a word. -/
def flagBit (b : Bool) (i : Nat) : Word := if b then BitVec.twoPow 32 i else 0

/-- STATUS as the host reads it (10_state.md R33). -/
def statusWord (t : Status) : Word :=
  flagBit t.busy 0 ||| flagBit t.tablesReady 1 ||| flagBit t.opened 2 ||| flagBit t.frameValid 3 |||
  flagBit t.eos 4 ||| flagBit t.warm 5 ||| flagBit t.errIo 8 ||| flagBit t.errVersion 9 |||
  flagBit t.errTable 10 ||| flagBit t.errCmd 11 ||| flagBit t.errRes 12 ||| flagBit t.errDesc 13

/-- PHASE[2:0] (10_state.md R53). -/
def phaseCode : Phase → BitVec 3
  | .idle => 0
  | .header => 1
  | .indicator => 2
  | .scalefactor => 3
  | .samples => 4
  | .requant => 5
  | .synth => 6

/-- The phase a point of the sequencer lies in (10_state.md R53; log 17 for the extra frame's jump field). -/
def phaseOf : Point → Phase
  | .idle => .idle
  | .fwdJump => .header
  | .extraJump => .synth
  | .res _ _ => .header
  | .resX _ _ => .header
  | .ms _ => .header
  | .scfi _ _ => .indicator
  | .scf _ _ _ => .scalefactor
  | .scfX _ _ _ => .scalefactor
  | .shape _ _ => .samples
  | .coef _ _ _ => .samples
  | .requant => .requant
  | .synth => .synth

/-- Does a subband-channel carry data? (42_frame_parser.md R185) -/
def coded (s : State) (c : Chan) (n : Subband) : Bool := resOf s c n != 0

/-- MaxUsed: the largest n in 0..MaxBand with a coded channel, or 0 (42_frame_parser.md R184). -/
def maxUsedOf (s : State) : BitVec 5 :=
  (List.finRange 32).foldl
    (fun m n => if decide (n.val ≤ s.latched.maxBand.toNat) && (coded s .l n || coded s .r n) then .ofNat 5 n.val else m) 0

/-- BITS_USED after a parse: BP - FrameStart (42_frame_parser.md R195; log 29). -/
def bitsUsedOf (s : State) : Word := (s.dec.bp - s.frame.frameStart).setWidth 32

/-- FRAME_VALID after a parse: BITS_USED = FWD_JUMP (42_frame_parser.md R195). -/
def frameValidOf (s : State) : Bool := bitsUsedOf s == s.frame.fwdJump.setWidth 32

/-- Is the frame just read the last one? (47_commands.md R315) -/
def lastFrame (s : State) : Bool := s.dec.frameCtr == s.latched.frames

/-- First emitted sample: 0 when the filter is warm, else SYNTH_DELAY (46_synthesis.md R295). -/
def trimLo (s : State) : Nat := if s.status.warm then 0 else synthDelay

/-- End of the emitted samples (46_synthesis.md R296, R297). -/
def trimHi (s : State) : Nat := if lastFrame s then s.latched.lastValid.toNat + synthDelay else frameLen

end Sys2Proof.Machine
end

