-- ==== Sys2Proof/Machine/Operands.lean ====
section
/-! DEFINITION. Operand assembly (30_encoding.md R111 to R115, 42_frame_parser.md R186 to R188). -/

namespace Sys2Proof.Machine

/-- The decoded value of a Huffman symbol as an integer (30_encoding.md R107, R111). -/
def entryInt (e : Entry) : Int := e.value.toInt

/-- Is an integer a resolution? -1, 0, .., RES_MAX (42_frame_parser.md R183). -/
def resLegal (r : Int) : Bool := decide (-1 ≤ r) && decide (r ≤ resMax)

/-- The number 256 c + n that ERR_INFO records for a resolution (42_frame_parser.md R194). -/
def bandNumber (c : Chan) (n : Subband) : Nat := 256 * chanCode c + n.val

/-- Subband n - 1 (30_encoding.md R112, the reference of a resolution delta). -/
def prevBand (n : Subband) : Subband := ⟨n.val - 1, by omega⟩

/-- SCFI of an SCFI_A symbol: v div 2 (30_encoding.md R115; log 34 for a v outside 0..7). -/
def scfiAIndicator (e : Entry) : BitVec 2 := (e.value >>> 1).setWidth 2

/-- DFLAG of an SCFI_A symbol: v mod 2 (30_encoding.md R115). -/
def scfiADiff (e : Entry) : Bool := e.value.getLsbD 0

/-- SCFI of an SCFI_B symbol: v itself (30_encoding.md R115). -/
def scfiBIndicator (e : Entry) : BitVec 2 := e.value.setWidth 2

/-- (ref + d) mod 256 (42_frame_parser.md R187). -/
def scfDelta (ref : BitVec 8) (e : Entry) : BitVec 8 := ref + e.value.setWidth 8

/-- A coefficient that is the symbol's value (42_frame_parser.md R199), in 32-bit two's complement. -/
def coefOf (e : Entry) : BitVec 32 := e.value.signExtend 32

/-- Coefficient p of a 3-step bundle (30_encoding.md R113). -/
def bundle3 (e : Entry) (p : Fin 3) : BitVec 32 :=
  match p.val with
  | 0 => .ofInt 32 (entryInt e % 3 - 1)
  | 1 => .ofInt 32 (entryInt e / 3 % 3 - 1)
  | _ => .ofInt 32 (entryInt e / 9 - 1)

/-- Coefficient p of a 5-step bundle (30_encoding.md R113). -/
def bundle5 (e : Entry) (p : Fin 2) : BitVec 32 :=
  match p.val with
  | 0 => .ofInt 32 (entryInt e % 5 - 2)
  | _ => .ofInt 32 (entryInt e / 5 - 2)

/-- A fixed-width coefficient, field minus offset (30_encoding.md R114). -/
def fixedCoef (i : Fin 10) (v : Nat) : BitVec 32 := .ofInt 32 ((v : Int) - dOff i)

/-- The reference of the index of segment g: the carry for segment 0, else the segment before (42_frame_parser.md
R188). -/
def scfRef (s : State) (c : Chan) (n : Subband) (g : Segment) : BitVec 8 :=
  match g.val with
  | 0 => bankGet s.dec.lastScf c n
  | 1 => (bankGet s.dec.scf c n)[0]
  | _ => (bankGet s.dec.scf c n)[1]

/-- The transmitted segment that follows segment g under indicator i (42_frame_parser.md R186). -/
def nextSegment (i : BitVec 2) (g : Segment) : Option Segment :=
  match i.toNat, g.val with
  | 0, 0 => some 1
  | 0, 1 => some 2
  | 1, 0 => some 1
  | 2, 0 => some 2
  | _, _ => none

/-- The triple after segment g was transmitted as v: the segments that copy it follow at once (42_frame_parser.md R186,
R188). -/
def scfTriple (i : BitVec 2) (g : Segment) (v : BitVec 8) (t : Vector (BitVec 8) 3) : Vector (BitVec 8) 3 :=
  match i.toNat, g.val with
  | 1, 1 => (t.set 1 v).set 2 v
  | 2, 0 => (t.set 0 v).set 1 v
  | 3, 0 => ((t.set 0 v).set 1 v).set 2 v
  | _, _ => t.set g v

/-- ScfSet with one transmitted index (42_frame_parser.md R188): SCF is written, and after the last transmitted segment
LastSCF <- SCF[2]. -/
def storeScf (s : State) (c : Chan) (n : Subband) (g : Segment) (v : BitVec 8) : State :=
  let i := bankGet s.frame.scfi c n
  let t := scfTriple i g v (bankGet s.dec.scf c n)
  let s := setScf s c n t
  if (nextSegment i g).isNone then setLastScf s c n t[2] else s

/-- Res[c][n] <- r, or ResRange when r is no resolution (42_frame_parser.md R194). -/
def writeRes (c : Chan) (n : Subband) (r : Int) (s : State) : State :=
  if resLegal r then setRes s c n (.ofInt 8 r) else raise .resRange (bandNumber c n) s

/-- A codeword is consumed: BP advances by LEN (41_huffman.md R160). -/
def consume (e : Entry) (s : State) : State := advance s e.len.toNat

/-- One coefficient per symbol (43_layout_a.md R218, 44_layout_b.md R251). -/
def symbolField (c : Chan) (n : Subband) (k : Slot) (e : Entry) (s : State) : State := setQ (consume e s) c n k (coefOf e)

end Sys2Proof.Machine
end

