-- ==== Sys2Proof/Machine/Sequencer.lean ====
section
/-! DEFINITION. The order of the fields of a frame: which point follows which instruction (30_encoding.md R108 to R110,
43_layout_a.md R225, 44_layout_b.md R257, 42_frame_parser.md R188, 47_commands.md R321). -/

namespace Sys2Proof.Machine

/-- Go to a point; PHASE follows (10_state.md R53). -/
def enter (p : Point) (s : State) : State := { s with run.point := p, phase := phaseOf p }

/-- The subband after n; used only below 31. -/
def nextBand (n : Subband) : Subband := ⟨(n.val + 1) % 32, by omega⟩

/-- The place of a subband-channel in the order of every phase: n ascending, L before R (42_frame_parser.md R182). -/
def chanOrder (c : Chan) (n : Subband) : Nat := 2 * n.val + chanCode c

/-- All subband-channels in that order. -/
def chanList : List (Chan × Subband) := (List.finRange 32).flatMap fun n => [(.l, n), (.r, n)]

/-- The first coded subband-channel at place k or later, n <= MaxUsed (42_frame_parser.md R184, R185). -/
def nextCoded (s : State) (k : Nat) : Option (Chan × Subband) :=
  chanList.find? fun x =>
    decide (k ≤ chanOrder x.1 x.2) && decide (x.2.val ≤ s.dec.maxUsed.toNat) && coded s x.1 x.2

/-- Arrive at a subband-channel in the SAMPLES phase: its shaping selector, or its first coefficient with v = 0
(42_frame_parser.md R189, R190). -/
def enterSamples (c : Chan) (n : Subband) (s : State) : State :=
  if decide (1 ≤ (resOf s c n).toInt) && decide ((resOf s c n).toInt ≤ 7) && shapeSel s.latched.layout then
    enter (.shape c n) s
  else enter (.coef c n 0) (setShape s false)

/-- The INDICATOR field at place k or later; when none is left, the SCALEFACTOR phase, or SAMPLES when no
subband-channel is coded (42_frame_parser.md R182). -/
def enterIndicator (k : Nat) (s : State) : State :=
  match nextCoded s k with
  | some (c, n) => enter (.scfi c n) s
  | none =>
    match nextCoded s 0 with
    | some (c, n) => enter (.scf c n 0) s
    | none => enterSamples .l 0 s

/-- The first SCALEFACTOR field of the next coded subband-channel at place k or later, or the SAMPLES phase. -/
def enterScalefactor (k : Nat) (s : State) : State :=
  match nextCoded s k with
  | some (c, n) => enter (.scf c n 0) s
  | none => enterSamples .l 0 s

/-- The end of the HEADER phase: MaxUsed (42_frame_parser.md R184), then the INDICATOR phase. -/
def endHeader (s : State) : State :=
  enterIndicator 0 { s with dec.maxUsed := maxUsedOf s, dec.maxUsedReg := maxUsedOf s }

/-- Subband n of the header is complete. -/
def endBand (n : Subband) (s : State) : State :=
  if n.val < s.latched.maxBand.toNat then enter (.res .l (nextBand n)) s else endHeader s

/-- The end of the parse: validation (42_frame_parser.md R195), then the requantizer. -/
def endParse (s : State) : State :=
  enter .requant { s with dec.bitsUsed := bitsUsedOf s, status.frameValid := frameValidOf s }

/-- The samples of (c, n) are complete. -/
def endChannel (c : Chan) (n : Subband) (s : State) : State :=
  match c with
  | .l => enterSamples .r n s
  | .r => if n.val < s.dec.maxUsed.toNat then enterSamples .l (nextBand n) s else endParse s

/-- Coefficient k is the next of (c, n), or (c, n) is complete. -/
def nextCoef (c : Chan) (n : Subband) (k : Nat) (s : State) : State :=
  if h : k < 36 then enter (.coef c n ⟨k, h⟩) s else endChannel c n s

/-- After the index of segment g was stored: the next transmitted segment, or the next subband-channel
(42_frame_parser.md R186, R188). -/
def nextScf (c : Chan) (n : Subband) (g : Segment) (s : State) : State :=
  match nextSegment (bankGet s.frame.scfi c n) g with
  | some g' => enter (.scf c n g') s
  | none => enterScalefactor (chanOrder c n + 1) s

/-- After a resolution of layout A: the flag between the two channels, then R, then the next subband (43_layout_a.md
R225). -/
def afterResA (c : Chan) (n : Subband) (s : State) : State :=
  match c with
  | .l => if s.latched.msEnable then enter (.ms n) s else enter (.res .r n) s
  | .r => endBand n s

/-- After a resolution of layout B: R, then the flag unless both are 0, then the next subband (44_layout_b.md R244, R257).
Without a flag MS[n] becomes 0 (R244, 47_commands.md R326; 10_state.md R59 differs, log 39). -/
def afterResB (c : Chan) (n : Subband) (s : State) : State :=
  match c with
  | .l => enter (.res .r n) s
  | .r =>
    if s.latched.msEnable && (coded s .l n || coded s .r n) then enter (.ms n) s
    else endBand n (setMs s n false)

/-- The header field is complete: the frame counts from here (47_commands.md R321), the extra frame does not
(46_synthesis.md R298). -/
def afterJump (s : State) : State :=
  if s.run.extra then enter (.res .l 0) s
  else enter (.res .l 0) { s with dec.frameCtr := s.dec.frameCtr + 1 }

/-- What comes after an instruction whose meaning completed. -/
def sequenceAfter (i : Instr) (s : State) : State :=
  match i with
  | .nop => s
  | .build => s
  | .openCmd => s
  | .resync => s
  | .decode => s
  | .replay => s
  | .setpos => s
  | .seed => s
  | .fwdjump _ => afterJump s
  | .qfix8 c n k _ => nextCoef c n (k.val + 1) s
  | .qfix9 c n k _ => nextCoef c n (k.val + 1) s
  | .qfix10 c n k _ => nextCoef c n (k.val + 1) s
  | .qfix11 c n k _ => nextCoef c n (k.val + 1) s
  | .qfix12 c n k _ => nextCoef c n (k.val + 1) s
  | .qfix13 c n k _ => nextCoef c n (k.val + 1) s
  | .qfix14 c n k _ => nextCoef c n (k.val + 1) s
  | .qfix15 c n k _ => nextCoef c n (k.val + 1) s
  | .qfix16 c n k _ => nextCoef c n (k.val + 1) s
  | .qfix17 c n k _ => nextCoef c n (k.val + 1) s
  | .qskip c n => endChannel c n s
  | .qnoise c n => endChannel c n s
  | .resA c n _ => afterResA c n s
  | .msflagA n _ => enter (.res .r n) s
  | .scfiA c n _ => enterIndicator (chanOrder c n + 1) s
  | .scfrawA c n g _ => nextScf c n g s
  | .dscfA c n g _ => nextScf c n g s
  | .shapeA c n _ => enter (.coef c n 0) s
  | .q1A c n k _ => nextCoef c n (k.val + 1) s
  | .q2A c n k _ => nextCoef c n (k.val + 1) s
  | .q3A c n k _ => nextCoef c n (k.val + 1) s
  | .q4A c n k _ => nextCoef c n (k.val + 1) s
  | .q5A c n k _ => nextCoef c n (k.val + 1) s
  | .q6A c n k _ => nextCoef c n (k.val + 1) s
  | .q7A c n k _ => nextCoef c n (k.val + 1) s
  | .res0B c _ => afterResB c 0 s
  | .resdB c n e => if entryInt e = escHdr then enter (.resX c n) s else afterResB c n s
  | .resxB c n _ => afterResB c n s
  | .msflagB n _ => endBand n s
  | .scfiB c n _ => enterIndicator (chanOrder c n + 1) s
  | .dscfB c n g e => if entryInt e = escDscf then enter (.scfX c n g) s else nextScf c n g s
  | .scfxB c n g _ => nextScf c n g s
  | .shapeB c n _ => enter (.coef c n 0) s
  | .q1B c n j _ => nextCoef c n (3 * (j.val + 1)) s
  | .q2B c n j _ => nextCoef c n (2 * (j.val + 1)) s
  | .q3B c n k _ => nextCoef c n (k.val + 1) s
  | .q4B c n k _ => nextCoef c n (k.val + 1) s
  | .q5B c n k _ => nextCoef c n (k.val + 1) s
  | .q6B c n k _ => nextCoef c n (k.val + 1) s
  | .q7B c n k _ => nextCoef c n (k.val + 1) s

end Sys2Proof.Machine
end

