-- ==== Sys2Proof/Machine/Fetch.lean ====
section
/-! DEFINITION. Fetching the next bitstream field: the format the parser state selects (30_encoding.md R100), the
instruction the decoder reads at BP, and the error a field that cannot be read raises (40_bitreader.md R131, R135;
41_huffman.md R160, R165, R166). -/

namespace Sys2Proof.Machine

/-- The coefficient field of (c, n) at k: dispatch on the resolution (42_frame_parser.md R190). None: a reserved
resolution. -/
def coefField (s : State) (c : Chan) (n : Subband) (k : Slot) : Option Field :=
  let v := s.run.shape
  match s.latched.layout, (resOf s c n).toNat with
  | _, 0 => some (.zero (.qskip c n))
  | _, 255 => some (.zero (.qnoise c n))
  | .a, 1 => some (.huf .a (tblQ v 0) (.q1A c n k))
  | .a, 2 => some (.huf .a (tblQ v 1) (.q2A c n k))
  | .a, 3 => some (.huf .a (tblQ v 2) (.q3A c n k))
  | .a, 4 => some (.huf .a (tblQ v 3) (.q4A c n k))
  | .a, 5 => some (.huf .a (tblQ v 4) (.q5A c n k))
  | .a, 6 => some (.huf .a (tblQ v 5) (.q6A c n k))
  | .a, 7 => some (.huf .a (tblQ v 6) (.q7A c n k))
  | .b, 1 => some (.huf .b (tblQ v 0) (.q1B c n ⟨k.val / 3, by omega⟩))
  | .b, 2 => some (.huf .b (tblQ v 1) (.q2B c n ⟨k.val / 2, by omega⟩))
  | .b, 3 => some (.huf .b (tblQ v 2) (.q3B c n k))
  | .b, 4 => some (.huf .b (tblQ v 3) (.q4B c n k))
  | .b, 5 => some (.huf .b (tblQ v 4) (.q5B c n k))
  | .b, 6 => some (.huf .b (tblQ v 5) (.q6B c n k))
  | .b, 7 => some (.huf .b (tblQ v 6) (.q7B c n k))
  | _, 8 => some (.raw (resBits 0) (.qfix8 c n k))
  | _, 9 => some (.raw (resBits 1) (.qfix9 c n k))
  | _, 10 => some (.raw (resBits 2) (.qfix10 c n k))
  | _, 11 => some (.raw (resBits 3) (.qfix11 c n k))
  | _, 12 => some (.raw (resBits 4) (.qfix12 c n k))
  | _, 13 => some (.raw (resBits 5) (.qfix13 c n k))
  | _, 14 => some (.raw (resBits 6) (.qfix14 c n k))
  | _, 15 => some (.raw (resBits 7) (.qfix15 c n k))
  | _, 16 => some (.raw (resBits 8) (.qfix16 c n k))
  | _, 17 => some (.raw (resBits 9) (.qfix17 c n k))
  | _, _ => none

/-- The format of the field at the sequencer's point (30_encoding.md R100, R109, R110). None at the points that read no
field and at a reserved resolution. -/
def fieldAt (s : State) : Option Field :=
  match s.run.point, s.latched.layout with
  | .idle, _ => none
  | .fwdJump, _ => some (.raw jumpBits fun x => .fwdjump (.ofNat 20 x))
  | .extraJump, _ => some (.raw jumpBits fun x => .fwdjump (.ofNat 20 x))
  | .res c n, .a => some (.huf .a tblHdr (.resA c n))
  | .res c n, .b => if n = 0 then some (.raw 4 fun x => .res0B c (.ofNat 4 x)) else some (.huf .b tblHdr (.resdB c n))
  | .resX c n, _ => some (.raw 4 fun x => .resxB c n (.ofNat 4 x))
  | .ms n, .a => some (.raw 1 fun x => .msflagA n (x.testBit 0))
  | .ms n, .b => some (.raw 1 fun x => .msflagB n (x.testBit 0))
  | .scfi c n, .a => some (.huf .a tblScfi (.scfiA c n))
  | .scfi c n, .b => some (.huf .b tblScfi (.scfiB c n))
  | .scf c n g, .a =>
    if bankGet s.frame.dflag c n then some (.huf .a tblDscf (.dscfA c n g))
    else some (.raw 6 fun x => .scfrawA c n g (.ofNat 6 x))
  | .scf c n g, .b => some (.huf .b tblDscf (.dscfB c n g))
  | .scfX c n g, _ => some (.raw 6 fun x => .scfxB c n g (.ofNat 6 x))
  | .shape c n, .a => some (.raw 1 fun x => .shapeA c n (x.testBit 0))
  | .shape c n, .b => some (.raw 1 fun x => .shapeB c n (x.testBit 0))
  | .coef c n k, _ => coefField s c n k
  | .requant, _ => none
  | .synth, _ => none

/-- The upcoming stream bits: no field is longer than 20 (30_encoding.md R106, R107). -/
def window (s : State) : List StreamBit := upcoming s 20

/-- The instruction at BP, under the format f. -/
def fetch (s : State) (f : Field) : Except DecodeError Instr := decodeField f (builtTable s) (window s)

/-- The number of the table a field is read with (60_exceptions.md R335); 0 for a field without a table. -/
def fieldTable : Field → Nat
  | .zero _ => 0
  | .raw _ _ => 0
  | .huf l t _ => tableNumber l t

/-- What a field that cannot be read does (40_bitreader.md R132, R135; 41_huffman.md R165, R166). -/
def fetchError (f : Field) (e : DecodeError) (s : State) : Result :=
  match e with
  | .readFail i => .next (raise .readError (s.dec.bp.toNat + i) s)
  | .tableAbsent => .next (raise .tableInvalidParse (fieldTable f) s)
  | .noCodeword => .next (raise .tableInvalidParse (fieldTable f) s)
  | .fieldWidth => .refused .fieldWidth
  | .reservedOp => .refused .fieldWidth
  | .upperBits => .refused .fieldWidth

end Sys2Proof.Machine
end

