-- ==== Sys2Proof/Machine/Huffman.lean ====
section
/-! DEFINITION. BUILD: the check of the literal tables and the construction of the built tables (41_huffman.md R151 to
R159). -/

namespace Sys2Proof.Machine

/-! The literal tables (30_encoding.md R102). -/

/-- Word j of LIT. -/
def litWord (lit : Ram) (j : Nat) : Word := ramWord .lit lit (4 * j)

/-- CODE of a LIT word. -/
def litCode (w : Word) : Nat := (w.extractLsb' 0 16).toNat

/-- LEN of a LIT word. -/
def litLen (w : Word) : Nat := (w.extractLsb' 16 5).toNat

/-- A legal LIT word: reserved bits 0, 1 <= LEN <= 14, CODE < 2^LEN (41_huffman.md R152 b). -/
def litLegal (w : Word) : Bool :=
  w.extractLsb' 21 11 == 0 && decide (1 ≤ litLen w) && decide (litLen w ≤ 14) && decide (litCode w < 2 ^ litLen w)

/-- The COUNT words of a literal table in symbol order (41_huffman.md R151). -/
def litTable (lit : Ram) (d : BitVec 25) : List Word :=
  (List.range (tdirCount d)).map fun j => litWord lit (tdirBase d + j)

/-- The codeword of x is the first LEN(x) bits of the codeword of y (41_huffman.md R152 c). -/
def litPrefix (x y : Word) : Bool := decide (litLen x ≤ litLen y) && litCode y >>> (litLen y - litLen x) == litCode x

/-- No codeword is a prefix of another's (41_huffman.md R152 c). -/
def prefixFree : List Word → Bool
  | [] => true
  | x :: xs => xs.all (fun y => !litPrefix x y && !litPrefix y x) && prefixFree xs

/-- The LIT ranges of two directory entries share no word. -/
def litDisjoint (d e : BitVec 25) : Bool :=
  decide (tdirBase d + tdirCount d ≤ tdirBase e) || decide (tdirBase e + tdirCount e ≤ tdirBase d)

/-- Two present tables may share LIT words only when BASE, COUNT and VOFF agree (41_huffman.md R152 d; log 16). -/
def overlapOk (d e : BitVec 25) : Bool :=
  tdirCount d == 0 || tdirCount e == 0 || litDisjoint d e || d == e

/-- The layout of the table at place i of TDIR. -/
def layoutAt (i : Fin 34) : Layout := if i.val < 17 then .a else .b

/-- The table id of the table at place i of TDIR. -/
def idAt (i : Fin 34) : Fin 17 := if h : i.val < 17 then ⟨i.val, h⟩ else ⟨i.val - 17, by omega⟩

/-- The shapes asked of particular tables (41_huffman.md R152 e; HDR_A at most 16 entries by 90_conflicts.md C6, log 15). -/
def shapeOk (l : Layout) (t : Fin 17) (d : BitVec 25) : Bool :=
  match l, t.val with
  | .b, 1 => tdirCount d == 4 && tdirVoff d == 0
  | .a, 1 => tdirCount d == 8 && tdirVoff d == 0
  | .a, 2 => tdirCount d == 13
  | .b, 3 => tdirCount d == 27 && tdirVoff d == 0
  | .b, 10 => tdirCount d == 27 && tdirVoff d == 0
  | .b, 4 => tdirCount d == 25 && tdirVoff d == 0
  | .b, 11 => tdirCount d == 25 && tdirVoff d == 0
  | .a, 0 => decide (tdirCount d ≤ 16)
  | _, _ => true

/-- The checks (a) to (e) of one directory entry with COUNT > 0 (41_huffman.md R152). -/
def tableOk (s : State) (i : Fin 34) : Bool :=
  let d := s.tdir[i]
  decide (tdirBase d + tdirCount d ≤ litWords) && decide (tdirCount d ≤ 64) &&
    (litTable s.lit d).all litLegal && prefixFree (litTable s.lit d) &&
    (List.finRange 34).all (fun j => overlapOk d s.tdir[j]) && shapeOk (layoutAt i) (idAt i) d

/-- The first directory entry, A before B and t ascending, that fails a check (41_huffman.md R152). -/
def buildBad (s : State) : Option (Fin 34) :=
  (List.finRange 34).find? fun i => tdirCount s.tdir[i] != 0 && !tableOk s i

/-! The built tables. -/

/-- The entry of symbol j (41_huffman.md R153). -/
def litEntry (d : BitVec 25) (j : Nat) (w : Word) : Entry where
  codeLA := .ofNat 32 (litCode w <<< (32 - litLen w))
  len := .ofNat 8 (litLen w)
  value := .ofInt 16 ((j : Int) - (tdirVoff d : Int))

/-- The entries of a table in TAB order: CODE_LA descending (41_huffman.md R154). -/
def builtEntries (lit : Ram) (d : BitVec 25) : List Entry :=
  ((litTable lit d).mapIdx (litEntry d)).insertionSort fun x y => y.codeLA.toNat ≤ x.codeLA.toNat

/-- The largest LEN of a table (41_huffman.md R155). -/
def maxLen (lit : Ram) (d : BitVec 25) : Nat := ((litTable lit d).map litLen).foldl max 0

/-- TCLS of a table: the length class in bits 1:0, the maximum length in bits 5:2 (41_huffman.md R155). -/
def tclsFor (lit : Ram) (d : BitVec 25) : BitVec 6 :=
  if tdirCount d = 0 then 0
  else
    let m := maxLen lit d
    .ofNat 6 (4 * m + if m ≤ 5 then 1 else if m ≤ 10 then 2 else 3)

/-- Build the table at place i (41_huffman.md R159, the second loop). -/
def buildOne (s : State) (i : Fin 34) : State :=
  let d := s.tdir[i]
  { s with
    tab := if tdirCount d = 0 then s.tab
      else ramWrite s.tab (8 * tdirBase d) ((builtEntries s.lit d).flatMap entryBytes)
    tcls := s.tcls.set i (tclsFor s.lit d) }

/-- Build() (41_huffman.md R159): all checks run before any write. -/
def build (s : State) : State :=
  match buildBad s with
  | some i => raise .tableInvalidBuild (tableNumber (layoutAt i) (idAt i)) { s with status.tablesReady := false }
  | none =>
    let t := (List.finRange 34).foldl buildOne s
    { t with status.tablesReady := true, status.errTable := false }

end Sys2Proof.Machine
end

