-- ==== Sys2Proof/Machine/Commands.lean ====
section
/-! DEFINITION. The eight commands of level 1 (47_commands.md R310 to R320). DECODE and REPLAY start here: the fields of
the frame and what follows them are later steps (log 1). -/

namespace Sys2Proof.Machine

/-- NOP (47_commands.md R311). -/
def execNop (s : State) : Result := .next (legal s)

/-- BUILD (47_commands.md R312). -/
def execBuild (s : State) : Result := .next (build (legal s))

/-- The bits OPEN clears before its checks (47_commands.md R313, 60_exceptions.md R342; 10_state.md R33 has ERR_IO and
ERR_RES cleared by an OPEN that succeeds, log 38). -/
def openClear (t : Status) : Status :=
  { t with
    opened := false, frameValid := false, eos := false, warm := false
    errIo := false, errRes := false, errVersion := false, errDesc := false }

/-- The first check of OPEN that fails, with what ERR_INFO records (47_commands.md R313). -/
def openCheck (r : Regs) : Option (RaiseKind × Nat) :=
  if (layoutOf r.descVersion).isNone then some (.badVersion, r.descVersion.toNat)
  else if r.descLastvalid.toNat = 0 ∨ frameLen < r.descLastvalid.toNat then some (.badDescriptor, 0x20)
  else if r.descHdroff.toNat % 4 ≠ 0 then some (.badDescriptor, 0x24)
  else if r.streamLen.toNat < r.descHdroff.toNat ∨ (r.streamLen.toNat - r.descHdroff.toNat) % 4 ≠ 0 then
    some (.badDescriptor, 0x2C)
  else none

/-- The latched copies (10_state.md R35 to R45). -/
def latch (r : Regs) : Latched where
  layout := (layoutOf r.descVersion).getD .a
  maxBand := r.descMaxband
  frames := r.descFrames
  gapless := r.descGapless
  lastValid := r.descLastvalid
  hdrOff := r.descHdroff
  msEnable := r.descMs
  streamLen := r.streamLen
  outFixed := r.outfmt

/-- A successful OPEN: the latch and the OPEN column of 10_state.md R69; what was buffered of the stream is discarded
(47_commands.md R313, 20_memory.md R84). -/
def openStream (s : State) : State :=
  { s with
    latched := latch s.regs
    dec := { Decoder.reset with prng := Config.prngInit s.regs.seed }
    frame.fwdJump := 0
    regs.samplesOut := 0
    phase := .idle
    streamDirty := none
    status.opened := true }

/-- OPEN (47_commands.md R313). -/
def execOpen (s : State) : Result :=
  if s.status.tablesReady then
    let t := { legal s with status := openClear (legal s).status }
    match openCheck t.regs with
    | some (k, info) => .next (raise k info (forgetStream t))
    | none => .next (openStream t)
  else .next (illegal s 2)

/-- The RESYNC column of 10_state.md R69 (47_commands.md R314). -/
def resyncDecoder (d : Decoder) : Decoder :=
  { d with
    res := Decoder.reset.res
    ms := Decoder.reset.ms
    scf := Decoder.reset.scf
    lastScf := Decoder.reset.lastScf
    y := Decoder.reset.y
    hist := Decoder.reset.hist
    dith := Decoder.reset.dith }

/-- RESYNC (47_commands.md R314). -/
def execResync (s : State) : Result :=
  if s.status.opened then
    .next { legal s with
      dec := resyncDecoder s.dec
      phase := .idle
      status := { (legal s).status with frameValid := false, warm := false } }
  else .next (illegal s 3)

/-- What DECODE and REPLAY share up to the frame's first field: end of stream, or the sequencer at the header field with
BUSY = 1 (47_commands.md R310, R315, R316, R321). -/
def startFrame (replay : Bool) (s : State) : State :=
  let t := { legal s with regs.samplesOut := 0 }
  if t.latched.frames.toNat ≤ t.dec.frameCtr.toNat then { t with status.eos := true }
  else { t with status.busy := true, phase := .header, run := { Run.reset with replay := replay, point := .fwdJump } }

/-- DECODE (47_commands.md R315). -/
def execDecode (s : State) : Result :=
  if s.status.opened then .next (startFrame false s) else .next (illegal s 4)

/-- REPLAY (47_commands.md R316). -/
def execReplay (s : State) : Result :=
  if s.status.opened then .next (startFrame true s) else .next (illegal s 5)

/-- SETPOS (47_commands.md R317); what was buffered of the stream is discarded (20_memory.md R84). -/
def execSetpos (s : State) : Result :=
  if s.status.opened ∧ s.regs.frameTarget.toNat ≤ s.latched.frames.toNat then
    .next { legal s with
      dec := { s.dec with bp := s.regs.posTargetHi ++ s.regs.posTargetLo, frameCtr := s.regs.frameTarget }
      streamDirty := none
      status := { (legal s).status with eos := false } }
  else .next (illegal s 6)

/-- SEED (47_commands.md R318). -/
def execSeed (s : State) : Result := .next { legal s with dec.prng := Config.prngInit s.regs.seed }

end Sys2Proof.Machine
end

