-- ==== Sys2Proof/Machine/FrameCommon.lean ====
section
/-! DEFINITION. The fields both layouts share (42_frame_parser.md R181, R191 to R193). A meaning is the rule of one
field: the bits consumed, what is written. What comes next in the frame is `sequenceAfter`. -/

namespace Sys2Proof.Machine

/-- FWDJUMP (42_frame_parser.md R181); the extra frame's is read and discarded (46_synthesis.md R298). -/
def execFwdjump (j : BitVec 20) (s : State) : Result :=
  let t := advance s jumpBits
  if s.run.extra then .next t
  else .next { t with frame := { t.frame with fwdJump := j, frameStart := t.dec.bp } }

/-- One coefficient of resolution 8 + i (42_frame_parser.md R193, 30_encoding.md R114). -/
def fixedField (i : Fin 10) (c : Chan) (n : Subband) (k : Slot) (v : Nat) (s : State) : State :=
  setQ (advance s (resBits i)) c n k (fixedCoef i v)

/-- QFIX8 (42_frame_parser.md R193). -/
def execQfix8 (c : Chan) (n : Subband) (k : Slot) (v : Nat) (s : State) : Result := .next (fixedField 0 c n k v s)
/-- QFIX9 (42_frame_parser.md R193). -/
def execQfix9 (c : Chan) (n : Subband) (k : Slot) (v : Nat) (s : State) : Result := .next (fixedField 1 c n k v s)
/-- QFIX10 (42_frame_parser.md R193). -/
def execQfix10 (c : Chan) (n : Subband) (k : Slot) (v : Nat) (s : State) : Result := .next (fixedField 2 c n k v s)
/-- QFIX11 (42_frame_parser.md R193). -/
def execQfix11 (c : Chan) (n : Subband) (k : Slot) (v : Nat) (s : State) : Result := .next (fixedField 3 c n k v s)
/-- QFIX12 (42_frame_parser.md R193). -/
def execQfix12 (c : Chan) (n : Subband) (k : Slot) (v : Nat) (s : State) : Result := .next (fixedField 4 c n k v s)
/-- QFIX13 (42_frame_parser.md R193). -/
def execQfix13 (c : Chan) (n : Subband) (k : Slot) (v : Nat) (s : State) : Result := .next (fixedField 5 c n k v s)
/-- QFIX14 (42_frame_parser.md R193). -/
def execQfix14 (c : Chan) (n : Subband) (k : Slot) (v : Nat) (s : State) : Result := .next (fixedField 6 c n k v s)
/-- QFIX15 (42_frame_parser.md R193). -/
def execQfix15 (c : Chan) (n : Subband) (k : Slot) (v : Nat) (s : State) : Result := .next (fixedField 7 c n k v s)
/-- QFIX16 (42_frame_parser.md R193). -/
def execQfix16 (c : Chan) (n : Subband) (k : Slot) (v : Nat) (s : State) : Result := .next (fixedField 8 c n k v s)
/-- QFIX17 (42_frame_parser.md R193). -/
def execQfix17 (c : Chan) (n : Subband) (k : Slot) (v : Nat) (s : State) : Result := .next (fixedField 9 c n k v s)

/-- QSKIP (42_frame_parser.md R191): no bit is read, Q is not written. -/
def execQskip (_c : Chan) (_n : Subband) (s : State) : Result := .next s

/-- The generator after k draws (42_frame_parser.md R192). -/
def prngAfter : Nat → Prng → Prng
  | 0, p => p
  | k + 1, p => prngAfter k (Config.noiseQ p).1

/-- The value of draw k, counted from 0 (42_frame_parser.md R192). -/
def noiseAt (p : Prng) (k : Nat) : Int := (Config.noiseQ (prngAfter k p)).2

/-- QNOISE (42_frame_parser.md R192): 36 draws, no bit is read. -/
def execQnoise (c : Chan) (n : Subband) (s : State) : Result :=
  .next { s with
    dec.prng := prngAfter 36 s.dec.prng
    frame.q := bankSet s.frame.q c n (Vector.ofFn fun k => .ofInt 32 (noiseAt s.dec.prng k.val)) }

end Sys2Proof.Machine
end

