-- ==== Sys2Proof/Machine/LayoutA.lean ====
section
/-! DEFINITION. The fields of layout A (43_layout_a.md R211 to R224). -/

namespace Sys2Proof.Machine

/-- RES_A (43_layout_a.md R211). -/
def execResA (c : Chan) (n : Subband) (e : Entry) (s : State) : Result := .next (writeRes c n (entryInt e) (consume e s))

/-- MSFLAG_A (43_layout_a.md R212). -/
def execMsflagA (n : Subband) (m : Bool) (s : State) : Result := .next (setMs (advance s 1) n m)

/-- SCFI_A (43_layout_a.md R213). -/
def execScfiA (c : Chan) (n : Subband) (e : Entry) (s : State) : Result :=
  .next (setDflag (setScfi (consume e s) c n (scfiAIndicator e)) c n (scfiADiff e))

/-- SCFRAW_A (43_layout_a.md R214), stored by ScfSet (42_frame_parser.md R188). -/
def execScfrawA (c : Chan) (n : Subband) (g : Segment) (v : BitVec 6) (s : State) : Result :=
  .next (storeScf (advance s 6) c n g (v.setWidth 8))

/-- DSCF_A (43_layout_a.md R215), stored by ScfSet (42_frame_parser.md R188). -/
def execDscfA (c : Chan) (n : Subband) (g : Segment) (e : Entry) (s : State) : Result :=
  .next (storeScf (consume e s) c n g (scfDelta (scfRef s c n g) e))

/-- SHAPE_A (43_layout_a.md R217). -/
def execShapeA (_c : Chan) (_n : Subband) (v : Bool) (s : State) : Result := .next (setShape (advance s 1) v)

/-- Q1_A (43_layout_a.md R218). -/
def execQ1A (c : Chan) (n : Subband) (k : Slot) (e : Entry) (s : State) : Result := .next (symbolField c n k e s)
/-- Q2_A (43_layout_a.md R219). -/
def execQ2A (c : Chan) (n : Subband) (k : Slot) (e : Entry) (s : State) : Result := .next (symbolField c n k e s)
/-- Q3_A (43_layout_a.md R220). -/
def execQ3A (c : Chan) (n : Subband) (k : Slot) (e : Entry) (s : State) : Result := .next (symbolField c n k e s)
/-- Q4_A (43_layout_a.md R221). -/
def execQ4A (c : Chan) (n : Subband) (k : Slot) (e : Entry) (s : State) : Result := .next (symbolField c n k e s)
/-- Q5_A (43_layout_a.md R222). -/
def execQ5A (c : Chan) (n : Subband) (k : Slot) (e : Entry) (s : State) : Result := .next (symbolField c n k e s)
/-- Q6_A (43_layout_a.md R223). -/
def execQ6A (c : Chan) (n : Subband) (k : Slot) (e : Entry) (s : State) : Result := .next (symbolField c n k e s)
/-- Q7_A (43_layout_a.md R224). -/
def execQ7A (c : Chan) (n : Subband) (k : Slot) (e : Entry) (s : State) : Result := .next (symbolField c n k e s)

end Sys2Proof.Machine
end

