-- ==== Sys2Proof/Machine/LayoutB.lean ====
section
/-! DEFINITION. The fields of layout B (44_layout_b.md R241 to R255). -/

namespace Sys2Proof.Machine

/-- RES0_B (44_layout_b.md R241). -/
def execRes0B (c : Chan) (v : BitVec 4) (s : State) : Result := .next (setRes (advance s 4) c 0 (v.setWidth 8))

/-- RESD_B (44_layout_b.md R242): a delta, or the escape, after which RESX_B follows. -/
def execResdB (c : Chan) (n : Subband) (e : Entry) (s : State) : Result :=
  if entryInt e = escHdr then .next (consume e s)
  else .next (writeRes c n ((resOf s c (prevBand n)).toInt + entryInt e) (consume e s))

/-- RESX_B (44_layout_b.md R243). -/
def execResxB (c : Chan) (n : Subband) (v : BitVec 4) (s : State) : Result :=
  .next (setRes (advance s 4) c n (v.setWidth 8))

/-- MSFLAG_B (44_layout_b.md R244). -/
def execMsflagB (n : Subband) (m : Bool) (s : State) : Result := .next (setMs (advance s 1) n m)

/-- SCFI_B (44_layout_b.md R245). -/
def execScfiB (c : Chan) (n : Subband) (e : Entry) (s : State) : Result :=
  .next (setScfi (consume e s) c n (scfiBIndicator e))

/-- DSCF_B (44_layout_b.md R246): a delta stored by ScfSet, or the escape, after which SCFX_B follows. -/
def execDscfB (c : Chan) (n : Subband) (g : Segment) (e : Entry) (s : State) : Result :=
  if entryInt e = escDscf then .next (consume e s)
  else .next (storeScf (consume e s) c n g (scfDelta (scfRef s c n g) e))

/-- SCFX_B (44_layout_b.md R247), stored by ScfSet. -/
def execScfxB (c : Chan) (n : Subband) (g : Segment) (v : BitVec 6) (s : State) : Result :=
  .next (storeScf (advance s 6) c n g (v.setWidth 8))

/-- SHAPE_B (44_layout_b.md R248). -/
def execShapeB (_c : Chan) (_n : Subband) (v : Bool) (s : State) : Result := .next (setShape (advance s 1) v)

/-- Q1_B (44_layout_b.md R249): three coefficients. -/
def execQ1B (c : Chan) (n : Subband) (j : Fin 12) (e : Entry) (s : State) : Result :=
  let t := setQ (consume e s) c n ⟨3 * j.val, by omega⟩ (bundle3 e 0)
  let t := setQ t c n ⟨3 * j.val + 1, by omega⟩ (bundle3 e 1)
  .next (setQ t c n ⟨3 * j.val + 2, by omega⟩ (bundle3 e 2))

/-- Q2_B (44_layout_b.md R250): two coefficients. -/
def execQ2B (c : Chan) (n : Subband) (j : Fin 18) (e : Entry) (s : State) : Result :=
  let t := setQ (consume e s) c n ⟨2 * j.val, by omega⟩ (bundle5 e 0)
  .next (setQ t c n ⟨2 * j.val + 1, by omega⟩ (bundle5 e 1))

/-- Q3_B (44_layout_b.md R251). -/
def execQ3B (c : Chan) (n : Subband) (k : Slot) (e : Entry) (s : State) : Result := .next (symbolField c n k e s)
/-- Q4_B (44_layout_b.md R252). -/
def execQ4B (c : Chan) (n : Subband) (k : Slot) (e : Entry) (s : State) : Result := .next (symbolField c n k e s)
/-- Q5_B (44_layout_b.md R253). -/
def execQ5B (c : Chan) (n : Subband) (k : Slot) (e : Entry) (s : State) : Result := .next (symbolField c n k e s)
/-- Q6_B (44_layout_b.md R254). -/
def execQ6B (c : Chan) (n : Subband) (k : Slot) (e : Entry) (s : State) : Result := .next (symbolField c n k e s)
/-- Q7_B (44_layout_b.md R255). -/
def execQ7B (c : Chan) (n : Subband) (k : Slot) (e : Entry) (s : State) : Result := .next (symbolField c n k e s)

end Sys2Proof.Machine
end

