-- ==== Sys2Proof/Machine/Dispatch.lean ====
section
/-! DEFINITION. One arm per instruction: a direct call of its meaning. -/

namespace Sys2Proof.Machine

def exec (i : Instr) (s : State) : Host.Outcome State Fault Refusal :=
  match i with
  | .nop => Sys2Proof.Machine.execNop s
  | .build => Sys2Proof.Machine.execBuild s
  | .openCmd => Sys2Proof.Machine.execOpen s
  | .resync => Sys2Proof.Machine.execResync s
  | .decode => Sys2Proof.Machine.execDecode s
  | .replay => Sys2Proof.Machine.execReplay s
  | .setpos => Sys2Proof.Machine.execSetpos s
  | .seed => Sys2Proof.Machine.execSeed s
  | .fwdjump j => Sys2Proof.Machine.execFwdjump j s
  | .qfix8 c n k v => Sys2Proof.Machine.execQfix8 c n k v s
  | .qfix9 c n k v => Sys2Proof.Machine.execQfix9 c n k v s
  | .qfix10 c n k v => Sys2Proof.Machine.execQfix10 c n k v s
  | .qfix11 c n k v => Sys2Proof.Machine.execQfix11 c n k v s
  | .qfix12 c n k v => Sys2Proof.Machine.execQfix12 c n k v s
  | .qfix13 c n k v => Sys2Proof.Machine.execQfix13 c n k v s
  | .qfix14 c n k v => Sys2Proof.Machine.execQfix14 c n k v s
  | .qfix15 c n k v => Sys2Proof.Machine.execQfix15 c n k v s
  | .qfix16 c n k v => Sys2Proof.Machine.execQfix16 c n k v s
  | .qfix17 c n k v => Sys2Proof.Machine.execQfix17 c n k v s
  | .qskip c n => Sys2Proof.Machine.execQskip c n s
  | .qnoise c n => Sys2Proof.Machine.execQnoise c n s
  | .resA c n e => Sys2Proof.Machine.execResA c n e s
  | .msflagA n m => Sys2Proof.Machine.execMsflagA n m s
  | .scfiA c n e => Sys2Proof.Machine.execScfiA c n e s
  | .scfrawA c n g v => Sys2Proof.Machine.execScfrawA c n g v s
  | .dscfA c n g e => Sys2Proof.Machine.execDscfA c n g e s
  | .shapeA c n v => Sys2Proof.Machine.execShapeA c n v s
  | .q1A c n k e => Sys2Proof.Machine.execQ1A c n k e s
  | .q2A c n k e => Sys2Proof.Machine.execQ2A c n k e s
  | .q3A c n k e => Sys2Proof.Machine.execQ3A c n k e s
  | .q4A c n k e => Sys2Proof.Machine.execQ4A c n k e s
  | .q5A c n k e => Sys2Proof.Machine.execQ5A c n k e s
  | .q6A c n k e => Sys2Proof.Machine.execQ6A c n k e s
  | .q7A c n k e => Sys2Proof.Machine.execQ7A c n k e s
  | .res0B c v => Sys2Proof.Machine.execRes0B c v s
  | .resdB c n e => Sys2Proof.Machine.execResdB c n e s
  | .resxB c n v => Sys2Proof.Machine.execResxB c n v s
  | .msflagB n m => Sys2Proof.Machine.execMsflagB n m s
  | .scfiB c n e => Sys2Proof.Machine.execScfiB c n e s
  | .dscfB c n g e => Sys2Proof.Machine.execDscfB c n g e s
  | .scfxB c n g v => Sys2Proof.Machine.execScfxB c n g v s
  | .shapeB c n v => Sys2Proof.Machine.execShapeB c n v s
  | .q1B c n j e => Sys2Proof.Machine.execQ1B c n j e s
  | .q2B c n j e => Sys2Proof.Machine.execQ2B c n j e s
  | .q3B c n k e => Sys2Proof.Machine.execQ3B c n k e s
  | .q4B c n k e => Sys2Proof.Machine.execQ4B c n k e s
  | .q5B c n k e => Sys2Proof.Machine.execQ5B c n k e s
  | .q6B c n k e => Sys2Proof.Machine.execQ6B c n k e s
  | .q7B c n k e => Sys2Proof.Machine.execQ7B c n k e s

end Sys2Proof.Machine
end

