-- ==== Sys2Proof/Machine/HostBus.lean ====
section
/-! DEFINITION. The host's side: the control registers (10_state.md R31 to R51, R53, R66), the table and output windows
(20_memory.md R71 to R79), the issue of a command (47_commands.md R310), and the host's duties (70_reset_and_hazards.md
R370, R374). -/

namespace Sys2Proof.Machine

/-- A word from bits 25 and below. -/
def low25 (w : Word) : BitVec 25 := w.setWidth 25

/-- The place in TDIR or TCLS of a register at offset `a` of an array that starts at `base` (10_state.md R66). -/
def arrayIndex (base a : Nat) : Option (Fin 34) :=
  if h : base ≤ a ∧ (a - base) / 4 < 34 then some ⟨(a - base) / 4, h.2⟩ else none

/-- A read of the register at offset `a` (a multiple of 4): WO and reserved registers read 0 (10_state.md R31). That STATUS
reads its live bits while BUSY = 1, a value 70_reset_and_hazards.md R370 does not give, is the model's choice (DESIGN CHOICE,
log 42). -/
def regRead (s : State) (a : Nat) : Word :=
  match arrayIndex 0x200 a, arrayIndex 0x100 a with
  | some i, _ => s.tcls[i].setWidth 32
  | none, some i => s.tdir[i].setWidth 32
  | none, none =>
    match a with
    | 0x04 => statusWord s.status
    | 0x08 => s.regs.errInfo
    | 0x0C => s.regs.descVersion.setWidth 32
    | 0x10 => s.regs.descRate
    | 0x14 => s.regs.descMaxband.setWidth 32
    | 0x18 => s.regs.descFrames
    | 0x1C => flagBit s.regs.descGapless 0
    | 0x20 => s.regs.descLastvalid.setWidth 32
    | 0x24 => s.regs.descHdroff
    | 0x28 => flagBit s.regs.descMs 0
    | 0x2C => s.regs.streamLen
    | 0x30 => s.regs.seed
    | 0x34 => flagBit s.regs.outfmt 0
    | 0x38 => s.dec.frameCtr
    | 0x3C => s.dec.bp.extractLsb' 0 32
    | 0x40 => s.dec.bp.extractLsb' 32 32
    | 0x44 => s.dec.bitsUsed
    | 0x48 => s.frame.fwdJump.setWidth 32
    | 0x4C => s.regs.samplesOut
    | 0x50 => s.dec.maxUsedReg.setWidth 32
    | 0x54 => s.regs.posTargetLo
    | 0x58 => s.regs.posTargetHi
    | 0x5C => s.regs.frameTarget
    | 0x60 => (phaseCode s.phase).setWidth 32
    | _ => 0

/-- The RW registers after a write at offset `a`; RO and reserved registers ignore it (10_state.md R31). -/
def regsWrite (r : Regs) (a : Nat) (v : Word) : Regs :=
  match a with
  | 0x0C => { r with descVersion := v.setWidth 8 }
  | 0x10 => { r with descRate := v }
  | 0x14 => { r with descMaxband := v.setWidth 5 }
  | 0x18 => { r with descFrames := v }
  | 0x1C => { r with descGapless := v.getLsbD 0 }
  | 0x20 => { r with descLastvalid := v.setWidth 11 }
  | 0x24 => { r with descHdroff := v }
  | 0x28 => { r with descMs := v.getLsbD 0 }
  | 0x2C => { r with streamLen := v }
  | 0x30 => { r with seed := v }
  | 0x34 => { r with outfmt := v.getLsbD 0 }
  | 0x54 => { r with posTargetLo := v }
  | 0x58 => { r with posTargetHi := v }
  | 0x5C => { r with frameTarget := v }
  | _ => r

/-- A write to a register other than CMD. TDIR is read-only once TABLES_READY = 1 (10_state.md R66). -/
def regWrite (s : State) (a : Nat) (v : Word) : State :=
  match arrayIndex 0x100 a with
  | some i => if s.status.tablesReady then s else { s with tdir := s.tdir.set i (low25 v) }
  | none => { s with regs := regsWrite s.regs a v }

/-- A word written to CMD while BUSY = 0 (47_commands.md R310, R319). That every command but a DECODE or REPLAY with a frame
left ends in the step of its CMD write, BUSY never seen at 1, is the model's choice (DESIGN CHOICE, log 43). -/
def runCommand (w : Word) (s : State) : Result :=
  match decodeCmd w with
  | .ok i => exec i s
  | .error _ => .next (illegal s w)

/-- The size of a window in bytes (20_memory.md R71 to R73). -/
def windowSize : Window → Nat
  | .reg => 0x300
  | .lit => 4 * litWords
  | .tab => 8 * litWords
  | .out => 4 * outElems

/-- May the host make this access while BUSY = 1? Only read STATUS, or write CMD, which the block answers
(70_reset_and_hazards.md R370). -/
def busyAllowed (write : Bool) (w : Window) (a : Nat) : Bool :=
  match w with
  | .reg => if write then a == 0 else a == 4
  | .lit => false
  | .tab => false
  | .out => false

/-- Why a host access stops, if it does (20_memory.md R71 to R73, R77; 70_reset_and_hazards.md R370; log 20). -/
def accessStop (s : State) (write : Bool) (w : Window) (a width : Nat) : Option Result :=
  if width ≠ 32 ∨ a % 4 ≠ 0 then some (.refused .hostAccessWidth)
  else if windowSize w ≤ a then some (.fault .noSuchAddress)
  else if s.status.busy && !busyAllowed write w a then some (.refused .hostAccessWhileBusy)
  else none

/-- The data of a host read. -/
def windowRead (s : State) (w : Window) (a : Nat) : Word :=
  match w with
  | .reg => regRead s a
  | .lit => ramWord .lit s.lit a
  | .tab => ramWord .tab s.tab a
  | .out => ramWord .out s.out a

/-- A host write to a window. LIT is read-only once TABLES_READY = 1, TAB always is (10_state.md R67); OUT is accessible
(60_exceptions.md R345), with an access kind the spec does not give (log 20). -/
def windowWrite (s : State) (w : Window) (a : Nat) (v : Word) : Result :=
  match w with
  | .reg =>
    if a = 0 then (if s.status.busy then .next (illegal s v) else runCommand v s)
    else .next (regWrite s a v)
  | .lit => if s.status.tablesReady then .next s else .next { s with lit := ramWrite s.lit a (wordBytes v) }
  | .tab => .next s
  | .out => .next (if Config.outWritable then { s with out := ramWrite s.out a (wordBytes v) } else s)

/-- Hardware reset: every register and array at its reset value; LIT, TAB and OUT unspecified; STREAM is no part of the
block (70_reset_and_hazards.md R360, R361; log 22). -/
def hardwareReset (s : State) : State :=
  { State.reset with
    lit := ramForget s.lit
    tab := ramForget s.tab
    out := ramForget s.out
    stream := s.stream
    streamFault := s.streamFault
    host := s.host
    hostData := s.hostData
    freeCtr := s.freeCtr }

/-- The host changes a byte of STREAM. While a stream is open every later bit is unspecified until the next OPEN or SETPOS
(70_reset_and_hazards.md R374, log 21). That a byte at or beyond StreamLen is stored and counts as such a change too, where
20_memory.md R70 gives STREAM no such address, is the model's choice (DESIGN CHOICE, log 41). -/
def putStream (a : Nat) (b : Byte) (s : State) : State :=
  let t := { s with stream := ramWrite s.stream a [b] }
  if s.status.opened then { t with streamDirty := some s.freeCtr, freeCtr := s.freeCtr + 1 } else t

/-- One act of the host. -/
def hostStep (act : HostAct) (s : State) : Result :=
  match act with
  | .write w a width v => (accessStop s true w a width).getD (windowWrite s w a v)
  | .read w a width => (accessStop s false w a width).getD (.next { s with hostData := windowRead s w a :: s.hostData })
  | .putStream a b =>
    if 2 ^ 32 ≤ a then .fault .noSuchAddress else .next (putStream a b s)
  | .reset => .next (hardwareReset s)

end Sys2Proof.Machine
end

