-- ==== Sys2Proof/Machine/Requantizer.lean ====
section
/-! DEFINITION. The requantizer and mid/side reconstruction (45_requantizer.md R260 to R270). -/

namespace Sys2Proof.Machine

/-- The segment of coefficient k, k div 12 (45_requantizer.md R263). -/
def segmentOf (k : Slot) : Segment := ⟨k.val / 12, by omega⟩

/-- Dequantization of one coefficient (45_requantizer.md R262). -/
def deq (s : State) (c : Chan) (n : Subband) (k : Slot) : Num :=
  Config.mul (Config.mul (Config.cc (resOf s c n).toInt) (Config.scfTab (bankGet s.dec.scf c n)[segmentOf k]))
    (Config.ofInt (qOf s c n k).toInt)

/-- The left and right sample of slot k, subband n (45_requantizer.md R264 to R268, R270). -/
def yPair (s : State) (k : Slot) (n : Subband) : Num × Num :=
  let cl := coded s .l n
  let cr := coded s .r n
  if s.dec.ms[n] && cl && cr then
    (Config.add (deq s .l n k) (deq s .r n k), Config.sub (deq s .l n k) (deq s .r n k))
  else if s.dec.ms[n] && cl then (deq s .l n k, deq s .l n k)
  else if s.dec.ms[n] && cr then (deq s .r n k, Config.neg (deq s .r n k))
  else (if cl then deq s .l n k else Config.zero, if cr then deq s .r n k else Config.zero)

/-- Requantize(): every element of Y is written (45_requantizer.md R270). -/
def requantize (s : State) : State :=
  { s with dec.y :=
    ⟨Vector.ofFn fun k => Vector.ofFn fun n => (yPair s k n).1,
      Vector.ofFn fun k => Vector.ofFn fun n => (yPair s k n).2⟩ }

end Sys2Proof.Machine
end

