-- ==== Sys2Proof/Machine/Synthesis.lean ====
section
/-! DEFINITION. The filterbank, the trim, the extra pass and the output (46_synthesis.md R290 to R304), and the two
internal phases of DECODE and REPLAY that read no field (47_commands.md R315, R316). -/

namespace Sys2Proof.Machine

/-- One channel's filter over its slots in ascending k (46_synthesis.md R290 to R292). -/
def synthChan : Hist → List (Vector Num 32) → Hist × List Num
  | h, [] => (h, [])
  | h, x :: xs =>
    let o := Config.synthSlot h x
    let r := synthChan o.1 xs
    (r.1, o.2.toList ++ r.2)

/-- SynthFrame(base): the histories advance and raw[c][base ..] takes the 1152 samples (46_synthesis.md R292). -/
def synthFrame (base : Nat) (s : State) : State :=
  let l := synthChan s.dec.hist.l s.dec.y.l.toList
  let r := synthChan s.dec.hist.r s.dec.y.r.toList
  { s with
    dec.hist := ⟨l.1, r.1⟩
    run.raw := ⟨s.run.raw.l.take base ++ l.2, s.run.raw.r.take base ++ r.2⟩ }

/-- Emission order: t ascending, L then R (46_synthesis.md R300). -/
def interleave : List Num → List Num → List (Chan × Num)
  | x :: xs, y :: ys => (.l, x) :: (.r, y) :: interleave xs ys
  | _, _ => []

/-- Fixed output: ToFixed threads the dither state in emission order (46_synthesis.md R302). -/
def toFixedAll : Dith → List (Chan × Num) → Dith × List Word
  | d, [] => (d, [])
  | d, (c, x) :: xs =>
    let o := Config.toFixed d c x
    let r := toFixedAll o.1 xs
    (r.1, .ofInt 32 o.2 :: r.2)

/-- The samples a DECODE emits: raw[c][lo .. hi-1] of both channels (46_synthesis.md R296, R297, R300). -/
def emitted (s : State) : List (Chan × Num) :=
  interleave ((s.run.raw.l.drop s.run.lo).take (s.run.hi - s.run.lo))
    ((s.run.raw.r.drop s.run.lo).take (s.run.hi - s.run.lo))

/-- The values of the OUT elements and the dither state after the conversion (46_synthesis.md R301, R302). -/
def converted (s : State) : Dith × List Word :=
  if s.latched.outFixed then toFixedAll s.dec.dith (emitted s)
  else (s.dec.dith, (emitted s).map fun x => Config.numBits x.2)

/-- Emission: OUT from element 0 on, SAMPLES_OUT <- 2 x (hi - lo) (46_synthesis.md R300 to R302). -/
def emit (s : State) : State :=
  { s with
    dec.dith := (converted s).1
    out := ramWrite s.out 0 ((converted s).2.flatMap wordBytes)
    regs.samplesOut := .ofNat 32 (2 * (s.run.hi - s.run.lo)) }

/-- The end of a command: PHASE <- 0, BUSY <- 0 (47_commands.md R310, R315, R316). -/
def finish (s : State) : State := { s with phase := .idle, status.busy := false, run := Run.reset }

/-- The start of ExtraPass (46_synthesis.md R298): save the four registers and read one more frame, or zero-fill Y. -/
def beginExtra (s : State) : State :=
  if s.latched.gapless then
    enter .extraJump { s with
      run.extra := true
      run.save := ⟨s.frame.fwdJump, s.dec.bitsUsed, s.dec.maxUsedReg, s.status.frameValid⟩ }
  else { s with run.extra := true, dec.y := Decoder.reset.y }

/-- The four registers get back what ExtraPass saved (46_synthesis.md R298). -/
def restoreSaved (s : State) : State :=
  { s with
    frame.fwdJump := s.run.save.fwdJump
    dec.bitsUsed := s.run.save.bitsUsed
    dec.maxUsedReg := s.run.save.maxUsedReg
    status.frameValid := s.run.save.frameValid }

/-- The REQUANT phase, then SYNTH (45_requantizer.md R270, 46_synthesis.md R298). -/
def requantStep (s : State) : State :=
  let t := requantize s
  enter .synth (if s.run.extra then restoreSaved t else t)

/-- The SYNTH phase of the frame itself, with the trim bounds (47_commands.md R315). -/
def synthMain (s : State) : State :=
  let t := synthFrame 0 s
  { t with status.warm := true, run.lo := trimLo s, run.hi := trimHi s }

/-- The SYNTH phase (47_commands.md R315, R316; 46_synthesis.md R292 to R300). -/
def synthStep (s : State) : State :=
  if s.run.extra then finish (emit (synthFrame frameLen s))
  else if s.run.replay then finish (synthMain s)
  else if lastFrame s && decide (frameLen < trimHi s) then beginExtra (synthMain s)
  else finish (emit (synthMain s))

end Sys2Proof.Machine
end

