-- ==== Sys2Proof/Machine/Step.lean ====
section
/-! DEFINITION. One step: an act of the host, or one field or internal phase of the command in progress (log 1, log 5). -/

namespace Sys2Proof.Machine

/-- After a meaning answered: while the command still runs, the sequencer moves on; a raise has ended it. -/
def thenSequence (i : Instr) : Result → Result
  | .next s => .next (if s.status.busy then sequenceAfter i s else s)
  | .fault r => .fault r
  | .refused r => .refused r

/-- The field at the sequencer's point: fetch, decode, run, move on. -/
def fieldStep (s : State) : Result :=
  match fieldAt s with
  | none => .fault .reservedResolution
  | some f =>
    match fetch s f with
    | .error e => fetchError f e s
    | .ok i => thenSequence i (exec i s)

/-- One step of the command in progress. -/
def blockStep (s : State) : Result :=
  match s.run.point with
  | .idle => .fault .busyWithoutCommand
  | .requant => .next (requantStep s)
  | .synth => .next (synthStep s)
  | .fwdJump => fieldStep s
  | .extraJump => fieldStep s
  | .res _ _ => fieldStep s
  | .resX _ _ => fieldStep s
  | .ms _ => fieldStep s
  | .scfi _ _ => fieldStep s
  | .scf _ _ _ => fieldStep s
  | .scfX _ _ _ => fieldStep s
  | .shape _ _ => fieldStep s
  | .coef _ _ _ => fieldStep s

/-- One step of the machine. The host's next act happens when it is due; otherwise the block works; an idle block with
no act due stays as it is (60_exceptions.md R349). -/
def step (s : State) : Host.Outcome State Fault Refusal :=
  match s.host with
  | op :: rest =>
    if op.now || !s.status.busy then hostStep op.act { s with host := rest } else blockStep s
  | [] => if s.status.busy then blockStep s else .next s

/-- The instruction placed where the next step fetches it (log 4): a CMD word as the host's next write to CMD; the
header field as the first field of a stream, the sequencer at it. -/
def State.withFetchWord (s : State) (nbits w : Nat) : State :=
  if nbits = 24 then
    { s with
      host := []
      status.busy := true
      run := { Run.reset with point := .fwdJump }
      phase := .header
      dec.bp := 0
      latched.hdrOff := 0
      latched.streamLen := 4
      streamFault := []
      streamDirty := none
      stream := ramWrite s.stream 0 (wordBytes (.ofNat 32 (w * 2 ^ 12))) }
  else
    { s with
      host := ⟨true, .write .reg 0 32 (.ofNat 32 w)⟩ :: s.host
      status.busy := false
      run := Run.reset }

end Sys2Proof.Machine
end

