-- ==== Sys2Proof/Safety.lean ====
section
/-! DEFINITION. The words the claims are stated in: reading one byte, what an instruction leaves alone, the spec's
conditions on literal tables, descriptors and commands written as propositions, and the invariants every step keeps. -/

namespace Sys2Proof.Machine

/-! Observers and frames. -/

/-- One byte of one of the machine's memories. -/
def byteAt (s : State) (sp : Space) (a : Nat) : Byte :=
  match sp with
  | .lit => ramByte .lit s.lit a
  | .tab => ramByte .tab s.tab a
  | .out => ramByte .out s.out a
  | .stream => ramByte .stream s.stream a

/-- Every byte of every memory reads as before. -/
def sameBytes (s t : State) : Prop := ∀ sp a, byteAt t sp a = byteAt s sp a

/-- The 32-bit unit at a reads as w, the byte at the lowest address its bits 7:0 (20_memory.md R76). -/
def wordAt (s : State) (sp : Space) (a : Nat) (w : Word) : Prop :=
  ∀ b < 4, byteAt s sp (a + b) = w.extractLsb' (8 * b) 8

/-- No act of the host is due while a command runs: the first one still to come, if any, waits for BUSY = 0
(47_commands.md R310; log 5). -/
def noActDue (s : State) : Prop := ∀ op rest, s.host = op :: rest → op.now = false

/-- s and u stand at the header field of one frame: the same position of the same stream, decoded under the same descriptor
with the same tables. MS agrees where no flag is ever read (it is 0 throughout an open stream, 10_state.md R55). Of the
other resolutions and flags, of the carry state, the Frame data, the output and the kind of command nothing is asked. -/
def sameFrame (s u : State) : Prop :=
  (∀ x, x = s ∨ x = u → x.status.busy = true ∧ noActDue x ∧ x.run.point = .fwdJump ∧ x.phase = .header ∧
    x.run.extra = false) ∧
  u.latched = s.latched ∧ u.tdir = s.tdir ∧ u.tcls = s.tcls ∧ u.tab = s.tab ∧ u.stream = s.stream ∧
  u.streamFault = s.streamFault ∧ u.streamDirty = s.streamDirty ∧ u.dec.bp = s.dec.bp ∧
  (s.latched.msEnable = false → u.dec.ms = s.dec.ms)

/-- u differs from s at most in what a header writes: the resolutions and the flags up to MaxBand, MaxUsed, FWD_JUMP and
FrameStart. -/
def onlyHeader (s u : State) : Prop :=
  u = { s with
    dec := { s.dec with res := u.dec.res, ms := u.dec.ms, maxUsed := u.dec.maxUsed, maxUsedReg := u.dec.maxUsedReg }
    frame := { s.frame with fwdJump := u.frame.fwdJump, frameStart := u.frame.frameStart } } ∧
  ∀ n : Subband, s.latched.maxBand.toNat < n.val → (∀ c, resOf u c n = resOf s c n) ∧ u.dec.ms[n] = s.dec.ms[n]

/-- A register file changed at most at element [c][n]. -/
def onlyAt {α : Type} (b b' : Bank α) (c : Chan) (n : Subband) : Prop :=
  ∀ d m, (d, m) ≠ (c, n) → bankGet b' d m = bankGet b d m

/-- t differs from s at most in DecoderState and the Frame data. -/
def onlyDecoder (s t : State) : Prop := t = { s with dec := t.dec, frame := t.frame } ∧ sameBytes s t

/-- After a field of n bits the frame data and every register of DecoderState but BP and `Res` are as before. -/
def resField (s t : State) (n : Nat) : Prop :=
  t.dec = { s.dec with bp := s.dec.bp + BitVec.ofNat 64 n, res := t.dec.res } ∧ t.frame = s.frame ∧ onlyDecoder s t

/-- The same for a field that writes the mid/side flags. -/
def msField (s t : State) (n : Nat) : Prop :=
  t.dec = { s.dec with bp := s.dec.bp + BitVec.ofNat 64 n, ms := t.dec.ms } ∧ t.frame = s.frame ∧ onlyDecoder s t

/-- The same for a field that writes a scalefactor triple. -/
def scfField (s t : State) (n : Nat) : Prop :=
  t.dec = { s.dec with bp := s.dec.bp + BitVec.ofNat 64 n, scf := t.dec.scf, lastScf := t.dec.lastScf } ∧
    t.frame = s.frame ∧ onlyDecoder s t

/-- The same for a field that writes an indicator. -/
def scfiField (s t : State) (n : Nat) : Prop :=
  t.dec = { s.dec with bp := s.dec.bp + BitVec.ofNat 64 n } ∧
    t.frame = { s.frame with scfi := t.frame.scfi, dflag := t.frame.dflag } ∧ onlyDecoder s t

/-- The same for a field that writes coefficients. -/
def quantField (s t : State) (n : Nat) : Prop :=
  t.dec = { s.dec with bp := s.dec.bp + BitVec.ofNat 64 n } ∧ t.frame = { s.frame with q := t.frame.q } ∧ onlyDecoder s t

/-- Every coefficient but those of (c, n) with index in `ks` is as before. -/
def onlyCoefs (s t : State) (c : Chan) (n : Subband) (ks : List Nat) : Prop :=
  ∀ d m i, (d, m) ≠ (c, n) ∨ i.val ∉ ks → qOf t d m i = qOf s d m i

/-- What a raise does and leaves alone (60_exceptions.md R340): `st` is the status word it starts from with the bits the
error writes; BUSY is cleared, ERR_INFO and SAMPLES_OUT are written; the other registers, PHASE, the tables, LIT, TAB,
STREAM and the environment are as before. -/
def raised (s t : State) (st : Status) (info : Nat) : Prop :=
  t.status = { st with busy := false } ∧
    t.regs = { s.regs with errInfo := BitVec.ofNat 32 info, samplesOut := 0 } ∧
    t.phase = s.phase ∧ t.tdir = s.tdir ∧ t.tcls = s.tcls ∧ t.streamFault = s.streamFault ∧
    t.host = s.host ∧ t.hostData = s.hostData ∧
    ∀ sp a, sp ≠ .out → byteAt t sp a = byteAt s sp a

/-- A raise that closes the stream (60_exceptions.md R340 (5)): FRAME_VALID, EOS and WARM are left open, as the spec
leaves them (95_test_vectors.md X13; log 12). -/
def raisedFatal (s t : State) (st : Status) (info : Nat) : Prop :=
  ∃ fv eos wm, raised s t { st with opened := false, frameValid := fv, eos := eos, warm := wm } info

/-! The order of fields (42_frame_parser.md R182, R184, R185, R189). -/

/-- A coded subband-channel up to MaxUsed, at place k of the order (n ascending, L before R) or later. -/
def codedFrom (s : State) (k : Nat) (c : Chan) (n : Subband) : Prop :=
  n.val ≤ s.dec.maxUsed.toNat ∧ resOf s c n ≠ 0 ∧ k ≤ chanOrder c n

/-- The first of them. -/
def firstCoded (s : State) (k : Nat) (c : Chan) (n : Subband) : Prop :=
  codedFrom s k c n ∧ ∀ d m, codedFrom s k d m → chanOrder c n ≤ chanOrder d m

/-- There is none. -/
def noneCoded (s : State) (k : Nat) : Prop := ∀ d m, ¬ codedFrom s k d m

/-- t is s at the first field of (c, n) in the SAMPLES phase: the shaping selector in layout B at a resolution 1 to 7,
else the first coefficient with variant 0 (42_frame_parser.md R189, R190). -/
def samplesFrom (s t : State) (c : Chan) (n : Subband) : Prop :=
  (s.latched.layout = .b → 1 ≤ (resOf s c n).toInt → (resOf s c n).toInt ≤ 7 →
    t = { s with run.point := .shape c n, phase := .samples }) ∧
  (s.latched.layout = .a ∨ (resOf s c n).toInt < 1 ∨ 7 < (resOf s c n).toInt →
    t = { s with run.point := .coef c n 0, run.shape := false, phase := .samples })

/-- The instruction completes the resolution of (c, n) in layout B: RES0_B, RESX_B, or RESD_B that is no escape. -/
def completesResB (c : Chan) (n : Subband) (i : Instr) : Prop :=
  (n.val = 0 ∧ ∃ x, i = .res0B c x) ∨ (∃ e, e.value.toInt ≠ 4 ∧ i = .resdB c n e) ∨ ∃ x, i = .resxB c n x

/-- The instruction ends subband n of the header: RES_A of R, MSFLAG_B, or the resolution of R in layout B where no flag
follows. `u` is the state it leaves before the header goes on: MS[n] is cleared where layout B has no flag
(44_layout_b.md R244, log 39). -/
def endsBand (s : State) (n : Subband) (i : Instr) (u : State) : Prop :=
  (u = s ∧ ((∃ e, i = .resA .r n e) ∨ ∃ b, i = .msflagB n b)) ∨
    (u = { s with dec.ms := s.dec.ms.set n false } ∧ completesResB .r n i ∧
      (s.latched.msEnable = false ∨ (resOf s .l n = 0 ∧ resOf s .r n = 0)))

/-- t is u after the header: MaxUsed is known, and the first indicator follows, or the samples when no subband-channel is
coded. -/
def headerDone (u t : State) : Prop :=
  let v := { u with dec.maxUsed := t.dec.maxUsed, dec.maxUsedReg := t.dec.maxUsed }
  (∀ c n, firstCoded v 0 c n → t = { v with run.point := .scfi c n, phase := .indicator }) ∧
    (noneCoded v 0 → samplesFrom v t .l 0)

/-! Formats of fields (30_encoding.md R106, R107). -/

/-- The instruction is a RAW(n) field; v is the shaping variant in force. -/
def isRaw (v : Bool) (i : Instr) (n : Nat) : Prop := ∃ mk, i.field v = some (.raw n mk)

/-- The instruction is a HUF field of table (l, t). -/
def isHuf (v : Bool) (i : Instr) (l : Layout) (t : Nat) : Prop := ∃ mk id, id.val = t ∧ i.field v = some (.huf l id mk)

/-- The next field is a RAW(n) field, and its number x makes the instruction `mk x`. -/
def readsRaw (s : State) (n : Nat) (mk : Nat → Instr) : Prop :=
  ∃ f, fieldAt s = some (.raw n f) ∧ ∀ x < 2 ^ n, f x = mk x

/-- The next field is a HUF field of table (l, t), and its matched entry e makes the instruction `mk e`. -/
def readsHuf (s : State) (l : Layout) (t : Nat) (mk : Entry → Instr) : Prop :=
  ∃ f id, id.val = t ∧ fieldAt s = some (.huf l id f) ∧ ∀ e, f e = mk e

/-- The fixed-width coefficient field of resolution 8 + i. -/
def qfix (i : Fin 10) (c : Chan) (n : Subband) (k : Slot) (v : Nat) : Instr :=
  match i.val with
  | 0 => .qfix8 c n k v
  | 1 => .qfix9 c n k v
  | 2 => .qfix10 c n k v
  | 3 => .qfix11 c n k v
  | 4 => .qfix12 c n k v
  | 5 => .qfix13 c n k v
  | 6 => .qfix14 c n k v
  | 7 => .qfix15 c n k v
  | 8 => .qfix16 c n k v
  | _ => .qfix17 c n k v

/-- The one-coefficient symbol of resolution r, layout A (1 to 7). -/
def symbolA (r : Fin 7) (c : Chan) (n : Subband) (k : Slot) (e : Entry) : Instr :=
  match r.val with
  | 0 => .q1A c n k e
  | 1 => .q2A c n k e
  | 2 => .q3A c n k e
  | 3 => .q4A c n k e
  | 4 => .q5A c n k e
  | 5 => .q6A c n k e
  | _ => .q7A c n k e

/-- The one-coefficient symbol of resolution r, layout B (3 to 7; `r` counts from 0). -/
def symbolB (r : Fin 5) (c : Chan) (n : Subband) (k : Slot) (e : Entry) : Instr :=
  match r.val with
  | 0 => .q3B c n k e
  | 1 => .q4B c n k e
  | 2 => .q5B c n k e
  | 3 => .q6B c n k e
  | _ => .q7B c n k e

/-- The instruction reads the last coefficient of (c, n), or all of them at once. -/
def endsChannel (c : Chan) (n : Subband) (i : Instr) : Prop :=
  i = .qskip c n ∨ i = .qnoise c n ∨ (∃ r e, i = symbolA r c n 35 e) ∨ (∃ r e, i = symbolB r c n 35 e) ∨
    (∃ e, i = .q1B c n 11 e) ∨ (∃ e, i = .q2B c n 17 e) ∨ ∃ j x, i = qfix j c n 35 x

/-- The instruction reads a coefficient of (c, n), and coefficient k is the next one. -/
def beforeCoef (c : Chan) (n : Subband) (k : Slot) (i : Instr) : Prop :=
  (∃ h : Slot, h.val + 1 = k.val ∧
    ((∃ r e, i = symbolA r c n h e) ∨ (∃ r e, i = symbolB r c n h e) ∨ ∃ j x, i = qfix j c n h x)) ∨
    (∃ j e, 3 * j.val + 3 = k.val ∧ i = .q1B c n j e) ∨ ∃ j e, 2 * j.val + 2 = k.val ∧ i = .q2B c n j e

/-! Synthesis and output (46_synthesis.md R290 to R292, R300 to R302). -/

/-- The histories go through the 36 slots of each channel: `h c k` before slot k. -/
def filtered (s t : State) (h : Chan → Nat → Hist) : Prop :=
  ∀ c, h c 0 = chanGet s.dec.hist c ∧ chanGet t.dec.hist c = h c 36 ∧
    ∀ k : Slot, h c (k.val + 1) = (Config.synthSlot (h c k.val) (chanGet s.dec.y c)[k]).1

/-- The samples of those slots stand at index `base` and above of x. -/
def slotSamples (s : State) (h : Chan → Nat → Hist) (base : Nat) (x : Chan → Nat → Num) : Prop :=
  ∀ (c : Chan) (k : Slot) (j : Subband),
    x c (base + 32 * k.val + j.val) = (Config.synthSlot (h c k.val) (chanGet s.dec.y c)[k]).2[j]

/-- The samples lo to hi - 1 of both channels go to OUT from element 0 on, interleaved L, R, as NumBits or through ToFixed,
which threads the dither state; SAMPLES_OUT counts them; the bytes of OUT past the last element keep what they held. -/
def outputs (s t : State) (lo hi : Nat) (x : Chan → Nat → Num) : Prop :=
  (∃ d : Nat → Dith, d 0 = s.dec.dith ∧ t.dec.dith = d (2 * (hi - lo)) ∧
    ∀ c i, lo ≤ i → i < hi →
      let e := 2 * (i - lo) + chanCode c
      if s.latched.outFixed then
        d (e + 1) = (Config.toFixed (d e) c (x c i)).1 ∧
          wordAt t .out (4 * e) (BitVec.ofInt 32 (Config.toFixed (d e) c (x c i)).2)
      else d (e + 1) = d e ∧ wordAt t .out (4 * e) (Config.numBits (x c i))) ∧
    (∀ a, 8 * (hi - lo) ≤ a → byteAt t .out a = byteAt s .out a) ∧
    (∀ sp a, sp ≠ .out → byteAt t sp a = byteAt s sp a) ∧
    t.regs = { s.regs with samplesOut := BitVec.ofNat 32 (2 * (hi - lo)) } ∧
    t.dec = { s.dec with hist := t.dec.hist, dith := t.dec.dith } ∧ t.frame = s.frame ∧ t.phase = .idle

/-! Scalefactor indices (42_frame_parser.md R186). -/

/-- Segment g is transmitted under indicator i. -/
abbrev transmitted (i g : Nat) : Prop := i = 0 ∨ (i = 1 ∧ g ≤ 1) ∨ (i = 2 ∧ g ≠ 1) ∨ (i = 3 ∧ g = 0)

/-- Segment g' copies the transmitted segment g under indicator i. -/
abbrev copies (i g g' : Nat) : Prop :=
  (i = 1 ∧ g = 1 ∧ g' = 2) ∨ (i = 2 ∧ g = 0 ∧ g' = 1) ∨ (i = 3 ∧ g = 0 ∧ (g' = 1 ∨ g' = 2))

/-- Segment g is the last one transmitted under indicator i. -/
abbrev lastSent (i g : Nat) : Prop := (i = 0 ∧ g = 2) ∨ (i = 1 ∧ g = 1) ∨ (i = 2 ∧ g = 2) ∨ (i = 3 ∧ g = 0)

/-- Index x was stored for segment g of (c, n): the segment and its copies take it, LastSCF takes segment 2 after the
last one, everything else is as before (42_frame_parser.md R186, R188). -/
def indexStored (s t : State) (c : Chan) (n : Subband) (g : Segment) (x : BitVec 8) : Prop :=
  let i := (bankGet s.frame.scfi c n).toNat
  (∀ g' : Segment, g' = g ∨ copies i g g' → (bankGet t.dec.scf c n)[g'] = x) ∧
    (∀ g' : Segment, ¬ (g' = g ∨ copies i g g') → (bankGet t.dec.scf c n)[g'] = (bankGet s.dec.scf c n)[g']) ∧
    (lastSent i g → bankGet t.dec.lastScf c n = (bankGet t.dec.scf c n)[2]) ∧
    (¬ lastSent i g → bankGet t.dec.lastScf c n = bankGet s.dec.lastScf c n) ∧
    onlyAt s.dec.scf t.dec.scf c n ∧ onlyAt s.dec.lastScf t.dec.lastScf c n

/-- The reference of segment g: LastSCF for segment 0, the segment before it otherwise (42_frame_parser.md R188). -/
def referenceOf (s : State) (c : Chan) (n : Subband) (g : Segment) : BitVec 8 :=
  if g.val = 0 then bankGet s.dec.lastScf c n else (bankGet s.dec.scf c n)[g.val - 1]'(by omega)

/-! Literal tables (41_huffman.md R152). -/

/-- Is the table at place i of TDIR present? -/
abbrev present (s : State) (i : Fin 34) : Prop := 0 < tdirCount s.tdir[i]

/-- The LIT word of symbol j of the table at place i. -/
def symbolWord (s : State) (i : Fin 34) (j : Nat) : Word := litWord s.lit (tdirBase s.tdir[i] + j)

/-- LEN of symbol j. -/
def symbolLen (s : State) (i : Fin 34) (j : Nat) : Nat := litLen (symbolWord s i j)

/-- CODE of symbol j. -/
def symbolCode (s : State) (i : Fin 34) (j : Nat) : Nat := litCode (symbolWord s i j)

/-- The checks (a) to (e) of the table at place i (41_huffman.md R152; HDR_A by 90_conflicts.md C6). -/
structure TableWellFormed (s : State) (i : Fin 34) : Prop where
  inLit : tdirBase s.tdir[i] + tdirCount s.tdir[i] ≤ 1024 ∧ tdirCount s.tdir[i] ≤ 64
  legalWords : ∀ j < tdirCount s.tdir[i], (symbolWord s i j).toNat < 2 ^ 21 ∧ 1 ≤ symbolLen s i j ∧
    symbolLen s i j ≤ 14 ∧ symbolCode s i j < 2 ^ symbolLen s i j
  prefixFree : ∀ j < tdirCount s.tdir[i], ∀ k < tdirCount s.tdir[i], j ≠ k → symbolLen s i j ≤ symbolLen s i k →
    symbolCode s i k / 2 ^ (symbolLen s i k - symbolLen s i j) ≠ symbolCode s i j
  overlap : ∀ i', present s i' → (∃ x, tdirBase s.tdir[i] ≤ x ∧ x < tdirBase s.tdir[i] + tdirCount s.tdir[i] ∧
    tdirBase s.tdir[i'] ≤ x ∧ x < tdirBase s.tdir[i'] + tdirCount s.tdir[i']) → s.tdir[i] = s.tdir[i']
  hdrA : i.val = 0 → tdirCount s.tdir[i] ≤ 16
  scfiA : i.val = 1 → tdirCount s.tdir[i] = 8 ∧ tdirVoff s.tdir[i] = 0
  dscfA : i.val = 2 → tdirCount s.tdir[i] = 13
  scfiB : i.val = 18 → tdirCount s.tdir[i] = 4 ∧ tdirVoff s.tdir[i] = 0
  q1B : i.val = 20 ∨ i.val = 27 → tdirCount s.tdir[i] = 27 ∧ tdirVoff s.tdir[i] = 0
  q2B : i.val = 21 ∨ i.val = 28 → tdirCount s.tdir[i] = 25 ∧ tdirVoff s.tdir[i] = 0

/-- Every present table is well formed. -/
def LiteralsWellFormed (s : State) : Prop := ∀ i, present s i → TableWellFormed s i

/-! Commands (47_commands.md R313, R320). -/

/-- The preconditions, in one table (47_commands.md R320), and the words that are a command at all (R116). -/
def commandAllowed (s : State) (w : Word) : Prop :=
  match w.toNat with
  | 0 => True
  | 1 => True
  | 2 => s.status.tablesReady = true
  | 3 => s.status.opened = true
  | 4 => s.status.opened = true
  | 5 => s.status.opened = true
  | 6 => s.status.opened = true ∧ s.regs.frameTarget.toNat ≤ s.latched.frames.toNat
  | 7 => True
  | _ => False

/-- The descriptor OPEN accepts (47_commands.md R313, 10_state.md R35, R40, 20_memory.md R77). -/
abbrev DescriptorLegal (r : Regs) : Prop :=
  (r.descVersion = 4 ∨ r.descVersion = 5 ∨ r.descVersion = 6 ∨ r.descVersion = 7) ∧
    1 ≤ r.descLastvalid.toNat ∧ r.descLastvalid.toNat ≤ 1152 ∧ r.descHdroff.toNat % 4 = 0 ∧
    r.descHdroff.toNat ≤ r.streamLen.toNat ∧ (r.streamLen.toNat - r.descHdroff.toNat) % 4 = 0

/-! Registers as the host reads them (10_state.md R31 to R53). -/

/-- The word w shows the flags of t at the bit positions of 10_state.md R33, and 0 in the reserved bits. -/
def showsStatus (t : Status) (w : Word) : Prop :=
  w.getLsbD 0 = t.busy ∧ w.getLsbD 1 = t.tablesReady ∧ w.getLsbD 2 = t.opened ∧ w.getLsbD 3 = t.frameValid ∧
    w.getLsbD 4 = t.eos ∧ w.getLsbD 5 = t.warm ∧ w.getLsbD 8 = t.errIo ∧ w.getLsbD 9 = t.errVersion ∧
    w.getLsbD 10 = t.errTable ∧ w.getLsbD 11 = t.errCmd ∧ w.getLsbD 12 = t.errRes ∧ w.getLsbD 13 = t.errDesc ∧
    ∀ i, i = 6 ∨ i = 7 ∨ 14 ≤ i → w.getLsbD i = false

/-- The number of a phase (10_state.md R53). -/
def phaseNumber : Phase → Word
  | .idle => 0
  | .header => 1
  | .indicator => 2
  | .scalefactor => 3
  | .samples => 4
  | .requant => 5
  | .synth => 6

/-- The registers that read as a word of State, with their offsets (10_state.md R34 to R53). -/
def registerWords (s : State) : List (Nat × Word) :=
  [(0x08, s.regs.errInfo), (0x0C, s.regs.descVersion.setWidth 32), (0x10, s.regs.descRate),
    (0x14, s.regs.descMaxband.setWidth 32), (0x18, s.regs.descFrames), (0x1C, if s.regs.descGapless then 1 else 0),
    (0x20, s.regs.descLastvalid.setWidth 32), (0x24, s.regs.descHdroff), (0x28, if s.regs.descMs then 1 else 0),
    (0x2C, s.regs.streamLen), (0x30, s.regs.seed), (0x34, if s.regs.outfmt then 1 else 0), (0x38, s.dec.frameCtr),
    (0x3C, s.dec.bp.setWidth 32), (0x40, (s.dec.bp >>> 32).setWidth 32), (0x44, s.dec.bitsUsed),
    (0x48, s.frame.fwdJump.setWidth 32), (0x4C, s.regs.samplesOut), (0x50, s.dec.maxUsedReg.setWidth 32),
    (0x54, s.regs.posTargetLo), (0x58, s.regs.posTargetHi), (0x5C, s.regs.frameTarget), (0x60, phaseNumber s.phase)]

/-! Invariants every step keeps. -/

/-- Every memory is in its canonical form. -/
def MemoryCanonical (s : State) : Prop := s.lit.cells.wf ∧ s.tab.cells.wf ∧ s.out.cells.wf ∧ s.stream.cells.wf

/-- What holds of the sequencer's point while a command runs. -/
def PointOk (s : State) : Prop :=
  match s.run.point with
  | .idle => False
  | .fwdJump => True
  | .extraJump => s.run.extra = true
  | .res _ n => n.val ≤ s.latched.maxBand.toNat
  | .resX _ n => n.val ≤ s.latched.maxBand.toNat ∧ 1 ≤ n.val ∧ s.latched.layout = .b
  | .ms n => n.val ≤ s.latched.maxBand.toNat ∧ s.latched.msEnable = true
  | .scfi c n => coded s c n = true
  | .scf c n _ => coded s c n = true
  | .scfX c n _ => coded s c n = true ∧ s.latched.layout = .b
  | .shape c n => 1 ≤ (resOf s c n).toInt ∧ (resOf s c n).toInt ≤ 7 ∧ shapeSel s.latched.layout = true
  | .coef _ _ _ => True
  | .requant => True
  | .synth => True

/-- The sequencer and the host's view of it agree: idle exactly when BUSY = 0; while a command runs its stream is open,
PHASE names the point's phase, and the point is one the parser can be at. -/
structure Coherent (s : State) : Prop where
  idle : s.status.busy = false → s.run.point = .idle
  opened : s.status.busy = true → s.status.opened = true
  phase : s.status.busy = true → s.phase = phaseOf s.run.point
  point : s.status.busy = true → PointOk s

/-- 0 <= FRAME_CTR <= Frames while a stream is open, and below Frames while a frame's header is still to be read
(10_state.md R46). -/
def FrameCounterBounded (s : State) : Prop :=
  (s.status.opened = true → s.dec.frameCtr.toNat ≤ s.latched.frames.toNat) ∧
    (s.status.busy = true → s.run.point = .fwdJump → s.dec.frameCtr.toNat < s.latched.frames.toNat)

/-- While a stream is open every resolution is in its domain, and 0 above MaxBand (10_state.md R54, 42_frame_parser.md
R183). -/
def ResolutionsLegal (s : State) : Prop :=
  s.status.opened = true → ∀ c n, -1 ≤ (resOf s c n).toInt ∧ (resOf s c n).toInt ≤ 17 ∧
    (s.latched.maxBand.toNat < n.val → resOf s c n = 0)

end Sys2Proof.Machine
end

