-- ==== Sys2Proof/Certificates/Slice0/Obligations.lean ====
section
/-! DEFINITION. The statements for the provers. -/

open Sys2Proof Sys2Proof.Machine

/-! Commands. -/

/-- NOP and SEED, the commands without a precondition that write no table: NOP clears ERR_CMD (47_commands.md R311), SEED
also loads the generator from the SEED register (R318); nothing else changes. -/
def Obligations.NopAndSeed : Prop :=
  ∀ s : State, exec .nop s = .next { s with status.errCmd := false } ∧
    exec .seed s = .next { s with status.errCmd := false, dec.prng := Config.prngInit s.regs.seed }

/-- The issue of a command: a word written to CMD while BUSY = 1, a reserved word, or a command whose precondition fails
sets ERR_CMD and ERR_INFO and nothing else; every other word runs its command, which leaves ERR_CMD clear (47_commands.md
R310, R319, R320; 60_exceptions.md R336). That a CMD write while BUSY = 1 writes ERR_INFO too is DEDUCED (log 18). -/
def Obligations.CommandIssue : Prop :=
  ∀ (s : State) (w : Word),
    (s.status.busy = true ∨ ¬ commandAllowed s w →
      hostStep (.write .reg 0 32 w) s = .next { s with status.errCmd := true, regs.errInfo := w }) ∧
    (s.status.busy = false → commandAllowed s w →
      ∃ i t, decodeCmd w = .ok i ∧ hostStep (.write .reg 0 32 w) s = exec i s ∧ exec i s = .next t ∧
        t.status.errCmd = false)

/-- BUILD checks every present table and raises TableInvalid at the first that fails, with TAB and TCLS unchanged; when
none fails it sets TABLES_READY (41_huffman.md R152). That the bound of 16 entries on HDR_A (90_conflicts.md C6) asks nothing
of an absent table is DEDUCED (log 15), and so is that of an overlapping pair the first table is reported (log 16). -/
def Obligations.BuildChecks : Prop :=
  (∀ s : State, LiteralsWellFormed s →
    ∃ t, exec .build s = .next t ∧ t.status = { s.status with errCmd := false, errTable := false, tablesReady := true }) ∧
  ∀ (s : State) (i : Fin 34), present s i → ¬ TableWellFormed s i →
    (∀ i' < i, present s i' → TableWellFormed s i') →
    ∃ t, exec .build s = .next t ∧
      raised s t { s.status with errCmd := false, tablesReady := false, errTable := true } (256 * (i.val / 17) + i.val % 17) ∧
      t.latched = s.latched ∧ t.dec = s.dec ∧ t.frame = s.frame

/-- What a successful BUILD writes: TCLS of every table, and for a present table the entries of its symbols, largest
CODE_LA first, in the format of 30_encoding.md R104, bits 15:8 of word 1 at 0 (41_huffman.md R153, R154, R155).
Nothing else changes. -/
def Obligations.BuildTables : Prop :=
  ∀ s : State, LiteralsWellFormed s →
    ∃ t, exec .build s = .next t ∧
      t = { s with
        status := { s.status with errCmd := false, errTable := false, tablesReady := true }, tab := t.tab, tcls := t.tcls } ∧
      (∀ i, ¬ present s i → t.tcls[i] = 0) ∧
      (∀ i, present s i → ∃ m, (∀ j < tdirCount s.tdir[i], symbolLen s i j ≤ m) ∧
        (∃ j < tdirCount s.tdir[i], symbolLen s i j = m) ∧
        (t.tcls[i]).toNat = 4 * m + (if m ≤ 5 then 1 else if m ≤ 10 then 2 else 3)) ∧
      (∀ i, present s i →
        let es := (List.range (tdirCount s.tdir[i])).map fun j => tabEntry t.tab (tdirBase s.tdir[i] + j)
        es.Pairwise (fun x y => y.codeLA.toNat < x.codeLA.toNat) ∧
        ∀ x, x ∈ es ↔ ∃ j < tdirCount s.tdir[i],
          x.codeLA.toNat = symbolCode s i j * 2 ^ (32 - symbolLen s i j) ∧ x.len.toNat = symbolLen s i j ∧
            x.value.toInt = (j : Int) - tdirVoff s.tdir[i]) ∧
      (∀ i, present s i → ∀ j < tdirCount s.tdir[i], byteAt t .tab (8 * (tdirBase s.tdir[i] + j) + 5) = 0) ∧
      (∀ a, (∀ i, present s i → ¬ (8 * tdirBase s.tdir[i] ≤ a ∧ a < 8 * (tdirBase s.tdir[i] + tdirCount s.tdir[i]))) →
        byteAt t .tab a = byteAt s .tab a) ∧
      (∀ sp a, sp ≠ .tab → byteAt t sp a = byteAt s sp a)

/-- A second BUILD leaves TAB and TCLS byte for byte the same (41_huffman.md R156). -/
def Obligations.BuildTwice : Prop :=
  ∀ s t u : State, exec .build s = .next t → t.status.tablesReady = true → exec .build t = .next u →
    u.tcls = t.tcls ∧ (∀ a, byteAt u .tab a = byteAt t .tab a) ∧ u.status.tablesReady = true

/-- OPEN with a legal descriptor: the flags, the latched copies, DecoderState at the OPEN column of 10_state.md R69
(47_commands.md R313, 10_state.md R35, R69). What was buffered of the stream is discarded
(20_memory.md R84; the mark is the model's, log 21). The transient arrays, the tables and every memory are as before. -/
def Obligations.OpenSucceeds : Prop :=
  ∀ s : State, s.status.tablesReady = true → DescriptorLegal s.regs →
    ∃ t, exec .openCmd s = .next t ∧
      t = { s with
        status := t.status, latched := t.latched, dec := t.dec, frame := { s.frame with fwdJump := 0 }, streamDirty := none
        regs := { s.regs with samplesOut := 0 }, phase := .idle } ∧
      t.status = { s.status with
        opened := true, frameValid := false, eos := false, warm := false, errIo := false, errRes := false,
        errVersion := false, errDesc := false, errCmd := false } ∧
      t.latched = ⟨if s.regs.descVersion = 7 then .b else .a, s.regs.descMaxband, s.regs.descFrames, s.regs.descGapless,
        s.regs.descLastvalid, s.regs.descHdroff, s.regs.descMs, s.regs.streamLen, s.regs.outfmt⟩ ∧
      t.dec.bp = 0 ∧ t.dec.frameCtr = 0 ∧ t.dec.bitsUsed = 0 ∧ t.dec.maxUsed = 0 ∧ t.dec.maxUsedReg = 0 ∧
      (∀ c n, resOf t c n = 0 ∧ bankGet t.dec.lastScf c n = 0 ∧ ∀ g : Segment, (bankGet t.dec.scf c n)[g] = 0) ∧
      (∀ n : Subband, t.dec.ms[n] = false) ∧
      (∀ (c : Chan) (k : Slot) (n : Subband), (chanGet t.dec.y c)[k][n] = Config.zero) ∧
      t.dec.hist = ⟨Config.hist0, Config.hist0⟩ ∧ t.dec.prng = Config.prngInit s.regs.seed ∧ t.dec.dith = Config.dith0 ∧
      sameBytes s t

/-- An OPEN that raises: BadVersion on a tag that has no layout (60_exceptions.md R332), after which DECODE is
refused; BadDescriptor on a legal tag with DESC_LASTVALID, DESC_HDROFF or STREAM_LEN out of range, with the offset of
the first offending register (R338). The stream stays closed. That ERR_IO and ERR_RES are cleared here too is DEDUCED
from 47_commands.md R313 against 10_state.md R33 (log 38); that the Frame data keep is the model's choice (log 14). -/
def Obligations.OpenRaises : Prop :=
  ∀ s : State, s.status.tablesReady = true →
    let cleared : Status := { s.status with
      opened := false, frameValid := false, eos := false, warm := false, errIo := false, errRes := false
      errVersion := false, errDesc := false, errCmd := false }
    (s.regs.descVersion ≠ 4 → s.regs.descVersion ≠ 5 → s.regs.descVersion ≠ 6 → s.regs.descVersion ≠ 7 →
      ∃ t, exec .openCmd s = .next t ∧
        raised s t { cleared with errVersion := true } s.regs.descVersion.toNat ∧ t.frame = s.frame ∧
        exec .decode t = .next { t with status.errCmd := true, regs.errInfo := 4 }) ∧
    ((s.regs.descVersion = 4 ∨ s.regs.descVersion = 5 ∨ s.regs.descVersion = 6 ∨ s.regs.descVersion = 7) →
      ¬ DescriptorLegal s.regs →
      ∃ t info, exec .openCmd s = .next t ∧ raised s t { cleared with errDesc := true } info ∧ t.frame = s.frame ∧
        (if s.regs.descLastvalid.toNat = 0 ∨ 1152 < s.regs.descLastvalid.toNat then info = 0x20
          else if s.regs.descHdroff.toNat % 4 ≠ 0 then info = 0x24 else info = 0x2C))

/-- RESYNC (47_commands.md R314): carry state, histories and dither are reset; BP, FRAME_CTR, Prng, EOS, the descriptor
and the tables are not touched; without an open stream it is an illegal command. -/
def Obligations.ResyncResult : Prop :=
  ∀ s : State,
    (s.status.opened = true →
      ∃ t, exec .resync s = .next t ∧
        t = { s with
          status := { s.status with errCmd := false, frameValid := false, warm := false }
          phase := .idle
          dec := { s.dec with
            res := t.dec.res, ms := t.dec.ms, scf := t.dec.scf, lastScf := t.dec.lastScf, y := t.dec.y
            hist := ⟨Config.hist0, Config.hist0⟩, dith := Config.dith0 } } ∧
        (∀ c n, resOf t c n = 0 ∧ bankGet t.dec.lastScf c n = 0 ∧ ∀ g : Segment, (bankGet t.dec.scf c n)[g] = 0) ∧
        (∀ n : Subband, t.dec.ms[n] = false) ∧
        (∀ (c : Chan) (k : Slot) (n : Subband), (chanGet t.dec.y c)[k][n] = Config.zero) ∧ sameBytes s t) ∧
    (s.status.opened = false → exec .resync s = .next { s with status.errCmd := true, regs.errInfo := 3 })

/-- DECODE and REPLAY with a frame left set BUSY, clear SAMPLES_OUT and stand at the frame's header field in phase HEADER
(47_commands.md R310, R315, R316, R321). The rest of the command is later steps: a choice of the model (log 1; PHASE is log
17). -/
def Obligations.DecodeReplayStart : Prop :=
  ∀ s : State, s.status.opened = true → s.dec.frameCtr.toNat < s.latched.frames.toNat →
    ∃ t u, exec .decode s = .next t ∧ exec .replay s = .next u ∧
      t = { s with
        status := { s.status with errCmd := false, busy := true }, regs := { s.regs with samplesOut := 0 }
        phase := .header, run := t.run } ∧
      t.run.point = .fwdJump ∧ t.run.replay = false ∧ t.run.extra = false ∧
      u = { t with run := { t.run with replay := true } } ∧ sameBytes s t ∧ sameBytes s u

/-- End of stream (60_exceptions.md R334): DECODE or REPLAY with no frame left sets EOS and SAMPLES_OUT = 0 and nothing
else; OPEN and SETPOS clear EOS. -/
def Obligations.EndOfStream : Prop :=
  (∀ s : State, s.status.opened = true → s.latched.frames.toNat ≤ s.dec.frameCtr.toNat →
    exec .decode s = .next { s with status := { s.status with errCmd := false, eos := true }, regs.samplesOut := 0 } ∧
    exec .replay s = .next { s with status := { s.status with errCmd := false, eos := true }, regs.samplesOut := 0 }) ∧
  (∀ s t : State, s.status.tablesReady = true → exec .openCmd s = .next t → t.status.eos = false) ∧
  (∀ s t : State, commandAllowed s 6 → exec .setpos s = .next t → t.status.eos = false)

/-- SETPOS (47_commands.md R317): BP and FRAME_CTR are loaded and EOS is cleared, what was buffered of
the stream is discarded (the mark is the model's, log 21), nothing else changes; without an open
stream or with FRAME_TARGET above Frames it is an illegal command. -/
def Obligations.SetposResult : Prop :=
  ∀ s : State,
    (s.status.opened = true → s.regs.frameTarget.toNat ≤ s.latched.frames.toNat →
      ∃ p : BitVec 64, p.toNat = s.regs.posTargetHi.toNat * 2 ^ 32 + s.regs.posTargetLo.toNat ∧
        exec .setpos s = .next { s with
          status := { s.status with errCmd := false, eos := false }
          dec := { s.dec with bp := p, frameCtr := s.regs.frameTarget }, streamDirty := none }) ∧
    (s.status.opened = false ∨ s.latched.frames.toNat < s.regs.frameTarget.toNat →
      exec .setpos s = .next { s with status.errCmd := true, regs.errInfo := 6 })

/-! Fields of both layouts. -/

/-- FWDJUMP (42_frame_parser.md R181): the first field of a frame, and of the extra frame, 20 bits. FWD_JUMP takes the
field and FrameStart the position after it; then FRAME_CTR counts the frame (47_commands.md R321) and the resolution of L in
subband 0 follows (30_encoding.md R109, R110). The sequencer is the model's (logs 1 and 17). -/
def Obligations.FwdjumpResult : Prop :=
  ∀ s : State, (s.run.point = .fwdJump ∨ s.run.point = .extraJump → readsRaw s 20 fun x => .fwdjump (.ofNat 20 x)) ∧
    ∀ (j : BitVec 20) (v : Bool), s.run.extra = false →
      isRaw v (.fwdjump j) 20 ∧
      exec (.fwdjump j) s = .next { s with
        dec := { s.dec with bp := s.dec.bp + 20 }, frame := { s.frame with fwdJump := j, frameStart := s.dec.bp + 20 } } ∧
      sequenceAfter (.fwdjump j) s =
        { s with dec := { s.dec with frameCtr := s.dec.frameCtr + 1 }, run.point := .res .l 0, phase := .header }

/-- QFIX8 to QFIX17 (42_frame_parser.md R193): one field of RESBITS[8 + i] bits, the coefficient is the field minus
DOFF[8 + i], never clamped; no other coefficient changes. -/
def Obligations.QfixResult : Prop :=
  ∀ (i : Fin 10) (c : Chan) (n : Subband) (k : Slot) (f : Nat) (s : State) (v : Bool), f < 2 ^ resBits i →
    isRaw v (qfix i c n k f) (resBits i) ∧
    ∃ t, exec (qfix i c n k f) s = .next t ∧ quantField s t (resBits i) ∧
      (qOf t c n k).toInt = (f : Int) - (Config.dOff i).toNat ∧ onlyCoefs s t c n [k.val]

/-- The two fields of zero width. QSKIP writes nothing (42_frame_parser.md R191). QNOISE makes 36 draws in order from Prng,
which the last draw leaves behind (R192); a draw outside 32 bits is kept modulo 2^32 (DEDUCED, log 27; log 7). -/
def Obligations.ZeroWidthFields : Prop :=
  ∀ (c : Chan) (n : Subband) (s : State),
    (exec (.qskip c n) s = .next s ∧ (Instr.qskip c n).encode = .bits []) ∧
    ∃ (t : State) (p : Nat → Prng), exec (.qnoise c n) s = .next t ∧ (Instr.qnoise c n).encode = .bits [] ∧
      p 0 = s.dec.prng ∧ (∀ k : Slot, p (k.val + 1) = (Config.noiseQ (p k.val)).1 ∧
        qOf t c n k = BitVec.ofInt 32 (Config.noiseQ (p k.val)).2) ∧
      t.dec = { s.dec with prng := p 36 } ∧ t.frame = { s.frame with q := t.frame.q } ∧ onlyDecoder s t ∧
      onlyAt s.frame.q t.frame.q c n

/-! Layout A and layout B. -/

/-- RES_A with a value in the domain: a codeword of HDR_A, the resolution is its value (43_layout_a.md R211). -/
def Obligations.ResAResult : Prop :=
  ∀ (c : Chan) (n : Subband) (e : Entry) (s : State) (v : Bool), -1 ≤ e.value.toInt → e.value.toInt ≤ 17 →
    isHuf v (.resA c n e) .a 0 ∧
    ∃ t, exec (.resA c n e) s = .next t ∧ resField s t e.len.toNat ∧ (resOf t c n).toInt = e.value.toInt ∧
      onlyAt s.dec.res t.dec.res c n

/-- A resolution below -1 or above RES_MAX raises ResRange with 256 c + n (42_frame_parser.md R194, 60_exceptions.md
R337): a symbol of HDR_A, or a delta of HDR_B that is no escape. -/
def Obligations.ResolutionOutOfRange : Prop :=
  ∀ (c : Chan) (n : Subband) (e : Entry) (s : State),
    (e.value.toInt < -1 ∨ 17 < e.value.toInt →
      ∃ t, exec (.resA c n e) s = .next t ∧
        raisedFatal s t { s.status with errRes := true } (256 * chanCode c + n.val)) ∧
    (1 ≤ n.val → e.value.toInt ≠ 4 →
      (resOf s c (prevBand n)).toInt + e.value.toInt < -1 ∨ 17 < (resOf s c (prevBand n)).toInt + e.value.toInt →
      ∃ t, exec (.resdB c n e) s = .next t ∧
        raisedFatal s t { s.status with errRes := true } (256 * chanCode c + n.val))

/-- MSFLAG_A and MSFLAG_B: one bit, MS[n] takes it (43_layout_a.md R212, 44_layout_b.md R244). -/
def Obligations.MsflagResult : Prop :=
  ∀ (n : Subband) (m v : Bool) (s : State),
    isRaw v (.msflagA n m) 1 ∧ isRaw v (.msflagB n m) 1 ∧
    ∃ t, exec (.msflagA n m) s = .next t ∧ exec (.msflagB n m) s = .next t ∧ msField s t 1 ∧ t.dec.ms[n] = m ∧
      ∀ k : Subband, k ≠ n → t.dec.ms[k] = s.dec.ms[k]

/-- SCFI_A: SCFI <- v div 2, DFLAG <- v mod 2 (43_layout_a.md R213). SCFI_B: SCFI is the value itself, DFLAG is not used
(44_layout_b.md R245). -/
def Obligations.ScfiResult : Prop :=
  ∀ (c : Chan) (n : Subband) (e : Entry) (s : State) (v : Bool), 0 ≤ e.value.toInt →
    (e.value.toInt ≤ 7 → isHuf v (.scfiA c n e) .a 1 ∧
      ∃ t, exec (.scfiA c n e) s = .next t ∧ scfiField s t e.len.toNat ∧
        ((bankGet t.frame.scfi c n).toNat : Int) = e.value.toInt / 2 ∧
        (bankGet t.frame.dflag c n = true ↔ e.value.toInt % 2 = 1) ∧
        onlyAt s.frame.scfi t.frame.scfi c n ∧ onlyAt s.frame.dflag t.frame.dflag c n) ∧
    (e.value.toInt ≤ 3 → isHuf v (.scfiB c n e) .b 1 ∧
      ∃ t, exec (.scfiB c n e) s = .next t ∧ scfiField s t e.len.toNat ∧
        ((bankGet t.frame.scfi c n).toNat : Int) = e.value.toInt ∧ t.frame.dflag = s.frame.dflag ∧
        onlyAt s.frame.scfi t.frame.scfi c n)

/-- SCFRAW_A and SCFX_B: six bits are the index of a transmitted segment, whatever the reference (43_layout_a.md R214,
44_layout_b.md R247). -/
def Obligations.ScfRawResult : Prop :=
  ∀ (c : Chan) (n : Subband) (g : Segment) (x : BitVec 6) (s : State) (v : Bool),
    transmitted (bankGet s.frame.scfi c n).toNat g →
    isRaw v (.scfrawA c n g x) 6 ∧ isRaw v (.scfxB c n g x) 6 ∧
    ∃ t, exec (.scfrawA c n g x) s = .next t ∧ exec (.scfxB c n g x) s = .next t ∧ scfField s t 6 ∧
      indexStored s t c n g (BitVec.ofNat 8 x.toNat)

/-- DSCF_A, and DSCF_B on a value other than the escape: the index is (ref + d) mod 256 (43_layout_a.md R215,
44_layout_b.md R246). -/
def Obligations.ScfDeltaResult : Prop :=
  ∀ (c : Chan) (n : Subband) (g : Segment) (e : Entry) (s : State) (v : Bool),
    transmitted (bankGet s.frame.scfi c n).toNat g →
    isHuf v (.dscfA c n g e) .a 2 ∧ isHuf v (.dscfB c n g e) .b 2 ∧
    ∃ t, exec (.dscfA c n g e) s = .next t ∧ (e.value.toInt ≠ 8 → exec (.dscfB c n g e) s = .next t) ∧
      scfField s t e.len.toNat ∧
      ∃ x : BitVec 8, (x.toNat : Int) = ((referenceOf s c n g).toNat + e.value.toInt) % 256 ∧ indexStored s t c n g x

/-- The escapes of layout B, RESD_B with value 4 and DSCF_B with value 8: only BP moves, and the raw field follows
(44_layout_b.md R242, R243, R246, R247). -/
def Obligations.EscapeAnnouncesRaw : Prop :=
  ∀ (c : Chan) (n : Subband) (g : Segment) (e : Entry) (s : State),
    (1 ≤ n.val → e.value.toInt = 4 →
      exec (.resdB c n e) s = .next { s with dec.bp := s.dec.bp + BitVec.ofNat 64 e.len.toNat } ∧
        (sequenceAfter (.resdB c n e) s).run.point = .resX c n) ∧
    (e.value.toInt = 8 →
      exec (.dscfB c n g e) s = .next { s with dec.bp := s.dec.bp + BitVec.ofNat 64 e.len.toNat } ∧
        (sequenceAfter (.dscfB c n g e) s).run.point = .scfX c n g)

/-- The fields of one ScfSet, transmitted raw: three, two, two or one of them by the indicator, the other segments
copies, LastSCF the third (42_frame_parser.md R186). -/
def Obligations.ScfSetRaw : Prop :=
  ∀ (c : Chan) (n : Subband) (a b d : BitVec 6) (s : State),
    let i := (bankGet s.frame.scfi c n).toNat
    let ab := BitVec.ofNat 8 a.toNat
    let bb := BitVec.ofNat 8 b.toNat
    let db := BitVec.ofNat 8 d.toNat
    let after (t : State) (x y z : BitVec 8) : Prop :=
      (bankGet t.dec.scf c n).toList = [x, y, z] ∧ bankGet t.dec.lastScf c n = z
    ∃ t, exec (.scfrawA c n 0 a) s = .next t ∧
      (i = 0 → nextSegment (bankGet t.frame.scfi c n) 0 = some 1 ∧ ∃ u, exec (.scfrawA c n 1 b) t = .next u ∧
        nextSegment (bankGet u.frame.scfi c n) 1 = some 2 ∧ ∃ w, exec (.scfrawA c n 2 d) u = .next w ∧
          nextSegment (bankGet w.frame.scfi c n) 2 = none ∧ after w ab bb db) ∧
      (i = 1 → nextSegment (bankGet t.frame.scfi c n) 0 = some 1 ∧ ∃ u, exec (.scfrawA c n 1 b) t = .next u ∧
        nextSegment (bankGet u.frame.scfi c n) 1 = none ∧ after u ab bb bb) ∧
      (i = 2 → nextSegment (bankGet t.frame.scfi c n) 0 = some 2 ∧ ∃ u, exec (.scfrawA c n 2 b) t = .next u ∧
        nextSegment (bankGet u.frame.scfi c n) 2 = none ∧ after u ab ab bb) ∧
      (i = 3 → nextSegment (bankGet t.frame.scfi c n) 0 = none ∧ after t ab ab ab)

/-- The fields of one ScfSet with every segment transmitted as a delta: the first against LastSCF, each later one against
the segment before it (42_frame_parser.md R187, R188). -/
def Obligations.ScfSetDifferential : Prop :=
  ∀ (c : Chan) (n : Subband) (e f g : Entry) (s : State), (bankGet s.frame.scfi c n).toNat = 0 →
    ∃ t u w, exec (.dscfA c n 0 e) s = .next t ∧ exec (.dscfA c n 1 f) t = .next u ∧ exec (.dscfA c n 2 g) u = .next w ∧
      ∃ x y z : BitVec 8, (x.toNat : Int) = ((bankGet s.dec.lastScf c n).toNat + e.value.toInt) % 256 ∧
        (y.toNat : Int) = (x.toNat + f.value.toInt) % 256 ∧ (z.toNat : Int) = (y.toNat + g.value.toInt) % 256 ∧
        (bankGet w.dec.scf c n).toList = [x, y, z] ∧ bankGet w.dec.lastScf c n = z

/-- SHAPE_A and SHAPE_B: one bit selects the shaping variant, and the coefficients of resolution r then use table
Q[v][r] of the layout (42_frame_parser.md R189). -/
def Obligations.ShapeResult : Prop :=
  ∀ (c : Chan) (n : Subband) (x v : Bool) (s : State),
    isRaw v (.shapeA c n x) 1 ∧ isRaw v (.shapeB c n x) 1 ∧
    ∃ t, exec (.shapeA c n x) s = .next t ∧ exec (.shapeB c n x) s = .next t ∧
      t = { s with dec := { s.dec with bp := s.dec.bp + 1 }, run := { s.run with shape := x } } ∧
      ∀ (k : Slot) (r : Nat), 1 ≤ r → r ≤ 7 → (resOf s c n).toInt = r →
        ∃ mk id, id.val = 3 + 7 * x.toNat + (r - 1) ∧ coefField t c n k = some (.huf s.latched.layout id mk)

/-- Q1_A to Q7_A and Q3_B to Q7_B: one symbol of Q[v][r] is one coefficient, the symbol's value, in any range
(43_layout_a.md R218 to R224, 44_layout_b.md R251 to R255). -/
def Obligations.SymbolCoefficient : Prop :=
  ∀ (c : Chan) (n : Subband) (k : Slot) (e : Entry) (s : State) (v : Bool),
    let done (i : Instr) : Prop :=
      ∃ t, exec i s = .next t ∧ quantField s t e.len.toNat ∧ (qOf t c n k).toInt = e.value.toInt ∧ onlyCoefs s t c n [k.val]
    (∀ r : Fin 7, isHuf v (symbolA r c n k e) .a (3 + 7 * v.toNat + r.val) ∧ done (symbolA r c n k e)) ∧
    (∀ r : Fin 5, isHuf v (symbolB r c n k e) .b (5 + 7 * v.toNat + r.val) ∧ done (symbolB r c n k e))

/-- Q1_B: symbol j yields coefficients 3j, 3j+1, 3j+2, the base-3 digits of its value minus 1 (44_layout_b.md R249). Q2_B:
symbol j yields coefficients 2j and 2j+1, the base-5 digits of its value minus 2 (R250). -/
def Obligations.BundleResult : Prop :=
  ∀ (c : Chan) (n : Subband) (e : Entry) (s : State) (v : Bool), 0 ≤ e.value.toInt →
    (∀ j : Fin 12, e.value.toInt ≤ 26 → isHuf v (.q1B c n j e) .b (3 + 7 * v.toNat) ∧
      ∃ t, exec (.q1B c n j e) s = .next t ∧ quantField s t e.len.toNat ∧
        (qOf t c n ⟨3 * j.val, by omega⟩).toInt = e.value.toInt % 3 - 1 ∧
        (qOf t c n ⟨3 * j.val + 1, by omega⟩).toInt = e.value.toInt / 3 % 3 - 1 ∧
        (qOf t c n ⟨3 * j.val + 2, by omega⟩).toInt = e.value.toInt / 9 - 1 ∧
        onlyCoefs s t c n [3 * j.val, 3 * j.val + 1, 3 * j.val + 2]) ∧
    (∀ j : Fin 18, e.value.toInt ≤ 24 → isHuf v (.q2B c n j e) .b (4 + 7 * v.toNat) ∧
      ∃ t, exec (.q2B c n j e) s = .next t ∧ quantField s t e.len.toNat ∧
        (qOf t c n ⟨2 * j.val, by omega⟩).toInt = e.value.toInt % 5 - 2 ∧
        (qOf t c n ⟨2 * j.val + 1, by omega⟩).toInt = e.value.toInt / 5 - 2 ∧
        onlyCoefs s t c n [2 * j.val, 2 * j.val + 1])

/-- The resolutions of layout B: RES0_B and RESX_B, four bits, 0 to 15 (44_layout_b.md R241, R243); RESD_B with a delta in
range, the resolution of the same channel one subband below plus the delta (R242). -/
def Obligations.ResolutionB : Prop :=
  ∀ (c : Chan) (n : Subband) (s : State) (v : Bool), 1 ≤ n.val →
    (∀ x : BitVec 4, isRaw v (.res0B c x) 4 ∧ isRaw v (.resxB c n x) 4 ∧
      (∃ t, exec (.res0B c x) s = .next t ∧ resField s t 4 ∧ (resOf t c 0).toInt = x.toNat ∧
        onlyAt s.dec.res t.dec.res c 0) ∧
      (∃ t, exec (.resxB c n x) s = .next t ∧ resField s t 4 ∧ (resOf t c n).toInt = x.toNat ∧
        onlyAt s.dec.res t.dec.res c n)) ∧
    ∀ (e : Entry) (p : Subband), p.val + 1 = n.val → e.value.toInt ≠ 4 →
      -1 ≤ (resOf s c p).toInt + e.value.toInt → (resOf s c p).toInt + e.value.toInt ≤ 17 →
      isHuf v (.resdB c n e) .b 0 ∧
      ∃ t, exec (.resdB c n e) s = .next t ∧ resField s t e.len.toNat ∧
        (resOf t c n).toInt = (resOf s c p).toInt + e.value.toInt ∧ onlyAt s.dec.res t.dec.res c n

/-! The order of the fields. -/

/-- ReadCoefs (42_frame_parser.md R190): resolution 0 skips, -1 fills from the generator, 1 to 7 reads a symbol of the
layout's quantizer alphabet, in layout B three coefficients at resolution 1 and two at resolution 2, 8 to 17 a fixed-width
field. -/
def Obligations.ReadCoefsDispatch : Prop :=
  ∀ (s : State) (c : Chan) (n : Subband) (k : Slot), s.run.point = .coef c n k →
    ((resOf s c n).toInt = 0 → fieldAt s = some (.zero (.qskip c n))) ∧
    ((resOf s c n).toInt = -1 → fieldAt s = some (.zero (.qnoise c n))) ∧
    (∀ r : Fin 7, (resOf s c n).toInt = r.val + 1 →
      ∃ mk id, id.val = 3 + 7 * s.run.shape.toNat + r.val ∧ fieldAt s = some (.huf s.latched.layout id mk) ∧
        (s.latched.layout = .a → ∀ e, mk e = symbolA r c n k e) ∧
        (s.latched.layout = .b → ∀ e,
          (r.val = 0 → mk e = .q1B c n ⟨k.val / 3, by omega⟩ e) ∧ (r.val = 1 → mk e = .q2B c n ⟨k.val / 2, by omega⟩ e) ∧
          ∀ r' : Fin 5, r.val = r'.val + 2 → mk e = symbolB r' c n k e)) ∧
    (∀ i : Fin 10, (resOf s c n).toInt = 8 + i.val → fieldAt s = some (.raw (resBits i) (qfix i c n k)))

/-- The header of a frame, its fields and their order (30_encoding.md R100, R109, R110). Layout A reads RES_A, layout
B RES0_B in subband 0, RESD_B above it and RESX_B after an escape (44_layout_b.md R241 to R243). Layout A: the
mid/side flag stands between the two resolutions whenever MsEnable = 1. Layout B: it follows them unless both are 0.
Then the next subband, and after subband MaxBand the first indicator, or the samples when nothing is coded
(43_layout_a.md R212, R225, 44_layout_b.md R244, R257). That MS[n] is cleared where layout B has no flag is DEDUCED
from R244 against 10_state.md R55 and R59 (log 39). The points are the model's sequencer (log 1), and so is when PHASE
changes (log 17). -/
def Obligations.HeaderOrder : Prop :=
  ∀ (s : State) (n : Subband),
    (∀ c, s.run.point = .res c n →
      (s.latched.layout = .a → readsHuf s .a 0 (.resA c n)) ∧
      (s.latched.layout = .b → n.val = 0 → readsRaw s 4 fun x => .res0B c (.ofNat 4 x)) ∧
      (s.latched.layout = .b → 1 ≤ n.val → readsHuf s .b 0 (.resdB c n))) ∧
    (∀ c, s.run.point = .resX c n → readsRaw s 4 fun x => .resxB c n (.ofNat 4 x)) ∧
    (s.run.point = .ms n →
      (s.latched.layout = .a → readsRaw s 1 fun x => .msflagA n (decide (x = 1))) ∧
      (s.latched.layout = .b → readsRaw s 1 fun x => .msflagB n (decide (x = 1)))) ∧
    (∀ e, sequenceAfter (.resA .l n e) s =
      { s with run.point := if s.latched.msEnable then .ms n else .res .r n, phase := .header }) ∧
    (∀ b, sequenceAfter (.msflagA n b) s = { s with run.point := .res .r n, phase := .header }) ∧
    (∀ i, completesResB .l n i → sequenceAfter i s = { s with run.point := .res .r n, phase := .header }) ∧
    (∀ i, completesResB .r n i → s.latched.msEnable = true → (resOf s .l n ≠ 0 ∨ resOf s .r n ≠ 0) →
      sequenceAfter i s = { s with run.point := .ms n, phase := .header }) ∧
    ∀ i u, endsBand s n i u →
      (∀ m : Subband, m.val = n.val + 1 → m.val ≤ s.latched.maxBand.toNat →
        sequenceAfter i s = { u with run.point := .res .l m, phase := .header }) ∧
      (n.val = s.latched.maxBand.toNat → headerDone u (sequenceAfter i s))

/-- MaxUsed after the header, whichever field ends it: the largest subband up to MaxBand with a coded channel, 0 when
there is none; the register MAXUSED takes it (42_frame_parser.md R184). Nothing else of DecoderState changes but MS[n]
where endsBand clears it, which is DEDUCED from 44_layout_b.md R244 against 10_state.md R55 and R59 (log 39). -/
def Obligations.MaxUsedComputed : Prop :=
  ∀ (s u : State) (n : Subband) (i : Instr), n.val = s.latched.maxBand.toNat → endsBand s n i u →
    let t := sequenceAfter i s
    t.dec.maxUsedReg = t.dec.maxUsed ∧
    (∀ m : Subband, m.val ≤ s.latched.maxBand.toNat → (resOf s .l m ≠ 0 ∨ resOf s .r m ≠ 0) →
      m.val ≤ t.dec.maxUsed.toNat) ∧
    (t.dec.maxUsed = 0 ∨ ∃ m : Subband, m.val = t.dec.maxUsed.toNat ∧ m.val ≤ s.latched.maxBand.toNat ∧
      (resOf s .l m ≠ 0 ∨ resOf s .r m ≠ 0)) ∧
    t.dec = { u.dec with maxUsed := t.dec.maxUsed, maxUsedReg := t.dec.maxUsedReg }

/-- An indicator is read as SCFI_A or SCFI_B by the layout (43_layout_a.md R213, 44_layout_b.md R245). After it comes
the indicator of the next coded subband-channel up to MaxUsed, subbands ascending and L before R; after the last one
the scalefactors of the first (42_frame_parser.md R182, R185). The points and their PHASE are the model's sequencer
(logs 1 and 17). -/
def Obligations.IndicatorOrder : Prop :=
  ∀ (s : State) (c : Chan) (n : Subband),
    (s.run.point = .scfi c n →
      (s.latched.layout = .a → readsHuf s .a 1 (.scfiA c n)) ∧ (s.latched.layout = .b → readsHuf s .b 1 (.scfiB c n))) ∧
    ∀ (e : Entry) (i : Instr), i = .scfiA c n e ∨ i = .scfiB c n e →
      (∀ d m, firstCoded s (chanOrder c n + 1) d m →
        sequenceAfter i s = { s with run.point := .scfi d m, phase := .indicator }) ∧
      (noneCoded s (chanOrder c n + 1) →
        (∀ d m, firstCoded s 0 d m → sequenceAfter i s = { s with run.point := .scf d m 0, phase := .scalefactor }) ∧
        (noneCoded s 0 → samplesFrom s (sequenceAfter i s) .l 0))

/-- A scalefactor is read in layout A as DSCF_A when DFLAG = 1 and as SCFRAW_A when DFLAG = 0, in layout B as DSCF_B,
with SCFX_B after its escape (43_layout_a.md R216, 44_layout_b.md R256). After the index of segment g, in any of its
fields, comes the next segment its indicator transmits; after the last one the first segment of the next coded
subband-channel up to MaxUsed; after the last subband-channel the samples (42_frame_parser.md R182, R186,
43_layout_a.md R225, 44_layout_b.md R257). The points and their PHASE are the model's sequencer (logs 1 and 17). -/
def Obligations.ScalefactorOrder : Prop :=
  ∀ (s : State) (c : Chan) (n : Subband) (g : Segment),
    (s.run.point = .scf c n g →
      (s.latched.layout = .a → bankGet s.frame.dflag c n = true → readsHuf s .a 2 (.dscfA c n g)) ∧
      (s.latched.layout = .a → bankGet s.frame.dflag c n = false → readsRaw s 6 fun x => .scfrawA c n g (.ofNat 6 x)) ∧
      (s.latched.layout = .b → readsHuf s .b 2 (.dscfB c n g))) ∧
    (s.run.point = .scfX c n g → readsRaw s 6 fun x => .scfxB c n g (.ofNat 6 x)) ∧
    ∀ (e : Entry) (x : BitVec 6) (i : Instr),
      i = .scfrawA c n g x ∨ i = .dscfA c n g e ∨ (i = .dscfB c n g e ∧ e.value.toInt ≠ 8) ∨ i = .scfxB c n g x →
      let f := (bankGet s.frame.scfi c n).toNat
      transmitted f g →
      (∀ g' : Segment, transmitted f g' → g < g' → (∀ m : Segment, transmitted f m → g < m → g' ≤ m) →
        sequenceAfter i s = { s with run.point := .scf c n g', phase := .scalefactor }) ∧
      (lastSent f g →
        (∀ d m, firstCoded s (chanOrder c n + 1) d m →
          sequenceAfter i s = { s with run.point := .scf d m 0, phase := .scalefactor }) ∧
        (noneCoded s (chanOrder c n + 1) → samplesFrom s (sequenceAfter i s) .l 0))

/-- The SAMPLES phase: the shaping selector, SHAPE_A or SHAPE_B by the layout, then coefficients 0 to 35; R after L;
the next subband after R, up to MaxUsed (42_frame_parser.md R182, R189, 43_layout_a.md R225, 44_layout_b.md R257). The
points and their PHASE are the model's sequencer (logs 1 and 17). -/
def Obligations.SamplesOrder : Prop :=
  ∀ (s : State) (c : Chan) (n : Subband),
    (s.run.point = .shape c n →
      (s.latched.layout = .a → readsRaw s 1 fun x => .shapeA c n (decide (x = 1))) ∧
      (s.latched.layout = .b → readsRaw s 1 fun x => .shapeB c n (decide (x = 1)))) ∧
    (∀ x i, i = .shapeA c n x ∨ i = .shapeB c n x →
      sequenceAfter i s = { s with run.point := .coef c n 0, phase := .samples }) ∧
    (∀ k i, beforeCoef c n k i → sequenceAfter i s = { s with run.point := .coef c n k, phase := .samples }) ∧
    (∀ i, endsChannel .l n i → samplesFrom s (sequenceAfter i s) .r n) ∧
    ∀ i (m : Subband), endsChannel .r n i → m.val = n.val + 1 → m.val ≤ s.dec.maxUsed.toNat →
      samplesFrom s (sequenceAfter i s) .l m

/-- Res and MS of a frame depend on no earlier frame (47_commands.md R326, its first clause). Two machines at the
header field of one frame read the same fields step by step, whatever resolutions, flags and carry state the frames
before left; where the header ends, MaxUsed and the resolutions and the flags up to MaxBand are equal. If they
differed in nothing but what a header writes, they are then one state. The other two clauses of R326 rest on its
premises CarryRebuilt and SynthMemory and are not stated. That a flag of an earlier frame is not kept where layout B
has none is DEDUCED from R244 and R326 against 10_state.md R59 (log 39); the steps and when PHASE changes are the
model's (logs 1 and 17). -/
def Obligations.HeaderForgetsEarlierFrames : Prop :=
  ∀ s u : State, sameFrame s u → ∀ (k : Nat) (t : State),
    (Host.Core.run Sys2Proof.core k s : Host.Outcome State Fault Refusal) = .next t → t.status.busy = true →
    (∀ j < k, ∃ m : State, (Host.Core.run Sys2Proof.core j s : Host.Outcome State Fault Refusal) = .next m ∧
      m.status.busy = true ∧ m.phase = .header) →
    ∃ v : State, (Host.Core.run Sys2Proof.core k u : Host.Outcome State Fault Refusal) = .next v ∧
      v.status.busy = true ∧ v.run.point = t.run.point ∧ v.dec.bp = t.dec.bp ∧
      (t.phase ≠ .header → v.dec.maxUsed = t.dec.maxUsed ∧
        (∀ n : Subband, n.val ≤ s.latched.maxBand.toNat →
          (∀ c, resOf v c n = resOf t c n) ∧ v.dec.ms[n] = t.dec.ms[n]) ∧
        (onlyHeader s u → v = t))

/-- The end of the parse, whichever field ends it (42_frame_parser.md R195): BITS_USED is BP - FrameStart, FRAME_VALID
says whether it is FWD_JUMP; BP stays where it is, and the requantizer follows whatever FRAME_VALID says (R196). That
BITS_USED is the difference modulo 2^32 and that FRAME_VALID compares that value is DEDUCED (log 29); the point after
the last field and its PHASE are the model's sequencer (logs 1 and 17). -/
def Obligations.FrameValidation : Prop :=
  ∀ (s : State) (n : Subband) (i : Instr), n.val = s.dec.maxUsed.toNat → endsChannel .r n i →
    ∃ (u : Word) (b : Bool), u.toNat = (s.dec.bp - s.frame.frameStart).toNat % 2 ^ 32 ∧
      (b = true ↔ u.toNat = s.frame.fwdJump.toNat) ∧
      sequenceAfter i s =
        { s with dec.bitsUsed := u, status.frameValid := b, run.point := .requant, phase := .requant }

/-! Requantizer and synthesis. -/

/-- The requantizer's step: every element of Y by the four cases of mid/side and left/right coding (45_requantizer.md
R262, R264 to R268), for the frame itself and for the extra frame; outside the extra pass nothing else of DecoderState
changes, FRAME_VALID is not read. That this is one step, which leads to the point of synthesis, is the model's choice
(log 1), and that PHASE becomes SYNTH with it is DEDUCED (log 17). -/
def Obligations.RequantizeResult : Prop :=
  ∀ s : State, noActDue s → s.status.busy = true → s.run.point = .requant →
    ∃ t, step s = .next t ∧
      (s.run.extra = false → t = { s with dec := { s.dec with y := t.dec.y }, run.point := .synth, phase := .synth }) ∧
      ∀ (k : Slot) (n : Subband) (g : Segment), g.val = k.val / 12 →
        let d (c : Chan) : Sys2Proof.Num := Config.mul
          (Config.mul (Config.cc (resOf s c n).toInt) (Config.scfTab (bankGet s.dec.scf c n)[g]))
          (Config.ofInt (qOf s c n k).toInt)
        let yl := t.dec.y.l[k][n]
        let yr := t.dec.y.r[k][n]
        (s.dec.ms[n] = false → yl = (if resOf s .l n = 0 then Config.zero else d .l) ∧
          yr = (if resOf s .r n = 0 then Config.zero else d .r)) ∧
        (s.dec.ms[n] = true → resOf s .l n ≠ 0 → resOf s .r n ≠ 0 →
          yl = Config.add (d .l) (d .r) ∧ yr = Config.sub (d .l) (d .r)) ∧
        (s.dec.ms[n] = true → resOf s .l n ≠ 0 → resOf s .r n = 0 → yl = d .l ∧ yr = d .l) ∧
        (s.dec.ms[n] = true → resOf s .l n = 0 → resOf s .r n ≠ 0 → yl = d .r ∧ yr = Config.neg (d .r)) ∧
        (resOf s .l n = 0 → resOf s .r n = 0 → yl = Config.zero ∧ yr = Config.zero)

/-- The synthesis step that ends a DECODE. Without an extra pass: 36 slots through each channel's filter and the samples lo
to hi - 1 to OUT, WARM set. After an extra pass: 36 more slots, whose samples stand at 1152 and above, and the samples
lo to hi - 1 of both frames to OUT (46_synthesis.md R290 to R292, R295 to R298, R300 to R302). That all of it is one step is
the model's choice (log 1). -/
def Obligations.DecodeEmits : Prop :=
  (∀ s : State, noActDue s → s.status.busy = true → s.run.point = .synth → s.run.extra = false → s.run.replay = false →
    let lo := if s.status.warm then 0 else 481
    let hi := if s.dec.frameCtr = s.latched.frames then s.latched.lastValid.toNat + 481 else 1152
    hi ≤ 1152 →
    ∃ t h x, step s = .next t ∧ filtered s t h ∧ slotSamples s h 0 x ∧ outputs s t lo hi x ∧
      t.status = { s.status with warm := true, busy := false }) ∧
  (∀ s : State, noActDue s → s.status.busy = true → s.run.point = .synth → s.run.extra = true →
    (∀ c, (chanGet s.run.raw c).length = 1152) → s.run.hi ≤ 2304 →
    ∃ t h x, step s = .next t ∧ filtered s t h ∧ slotSamples s h 1152 x ∧
      (∀ c i, i < 1152 → (chanGet s.run.raw c)[i]? = some (x c i)) ∧ outputs s t s.run.lo s.run.hi x ∧
      t.status = { s.status with busy := false })

/-- The extra pass (46_synthesis.md R298), run when the last frame's samples reach past 1152. The frame's own 1152 samples
and the trim bounds are kept for the output (R295, R297); with Gapless = 1 one more frame is read, its header field
discarded, and after its requantizer FWD_JUMP, BITS_USED, MAXUSED and FRAME_VALID get back the values of the last frame;
with Gapless = 0 no bit is read and Y is zero. That PHASE is SYNTH at the extra frame's header field is DEDUCED (log 17). -/
def Obligations.ExtraPass : Prop :=
  (∀ s : State, noActDue s → s.status.busy = true → s.run.point = .synth → s.run.extra = false → s.run.replay = false →
    s.phase = .synth → s.dec.frameCtr = s.latched.frames → 671 < s.latched.lastValid.toNat →
    ∃ t h x, step s = .next t ∧ filtered s t h ∧ slotSamples s h 0 x ∧
      t = { s with
        status := { s.status with warm := true }, dec := { s.dec with hist := t.dec.hist, y := t.dec.y }, run := t.run
        phase := .synth } ∧
      t.run.extra = true ∧ t.run.replay = false ∧ t.run.lo = (if s.status.warm then 0 else 481) ∧
      t.run.hi = s.latched.lastValid.toNat + 481 ∧
      (∀ c, (chanGet t.run.raw c).length = 1152 ∧ ∀ i < 1152, (chanGet t.run.raw c)[i]? = some (x c i)) ∧
      (if s.latched.gapless then t.run.point = .extraJump ∧ t.dec.y = s.dec.y ∧
          t.run.save = ⟨s.frame.fwdJump, s.dec.bitsUsed, s.dec.maxUsedReg, s.status.frameValid⟩
        else t.run.point = .synth ∧ ∀ (c : Chan) (k : Slot) (n : Subband), (chanGet t.dec.y c)[k][n] = Config.zero)) ∧
  (∀ (s : State) (j : BitVec 20), s.run.extra = true →
    exec (.fwdjump j) s = .next { s with dec.bp := s.dec.bp + 20 } ∧
      sequenceAfter (.fwdjump j) s = { s with run.point := .res .l 0, phase := .header }) ∧
  (∀ s : State, noActDue s → s.status.busy = true → s.run.point = .requant → s.run.extra = true →
    ∃ t, step s = .next t ∧
      t = { s with
        dec := { s.dec with y := t.dec.y, bitsUsed := s.run.save.bitsUsed, maxUsedReg := s.run.save.maxUsedReg }
        frame := { s.frame with fwdJump := s.run.save.fwdJump }
        status := { s.status with frameValid := s.run.save.frameValid }, run.point := .synth, phase := .synth })

/-- REPLAY ends without output: SAMPLES_OUT and OUT are untouched, the histories advance, WARM is set, the dither state
keeps (47_commands.md R316, 46_synthesis.md R300). -/
def Obligations.ReplayDiscards : Prop :=
  ∀ s : State, noActDue s → s.status.busy = true → s.run.point = .synth → s.run.extra = false → s.run.replay = true →
    ∃ t h, step s = .next t ∧ filtered s t h ∧
      t = { s with
        status := { s.status with warm := true, busy := false }, phase := .idle, run := t.run
        dec := { s.dec with hist := t.dec.hist } } ∧
      t.run.point = .idle ∧ sameBytes s t

/-! Fetching and decoding. -/

/-- A step runs the decoded instruction. A word the host writes to CMD of an idle block: step is exec of the decoded
command. A field at the sequencer's point: step is exec of the decoded field, after which, unless it raised, the
sequencer moves to the next point. That one step is one whole command word or one whole field is the model's choice (log 1,
log 2). -/
def Obligations.StepRunsDecoded : Prop :=
  (∀ (s : State) (now : Bool) (w : Word) (rest : List HostOp) (i : Instr),
    s.host = ⟨now, .write .reg 0 32 w⟩ :: rest → s.status.busy = false → decodeCmd w = .ok i →
    step s = exec i { s with host := rest }) ∧
  (∀ (s t : State) (f : Field) (i : Instr),
    noActDue s → s.status.busy = true → fieldAt s = some f →
    decodeField f (builtTable s) (upcoming s 20) = .ok i → exec i s = .next t →
    step s = .next (if t.status.busy then sequenceAfter i t else t))

/-- GetBits (40_bitreader.md R131 with 20_memory.md R75): a RAW(n) field, 1 <= n <= 20, whose bits all lie in readable
words decodes to a number of n bits; while the host keeps STREAM unchanged they are the n stream bits at BP, the first the
most significant, bit p in byte (31 - p mod 32) div 8 of its word. -/
def Obligations.RawFieldValue : Prop :=
  ∀ (s : State) (n : Nat) (mk : Nat → Instr), 1 ≤ n → n ≤ 20 →
    (∀ i < n, wordFails s ((s.dec.bp.toNat + i) / 32) = false) →
    ∃ v, v < 2 ^ n ∧ decodeField (.raw n mk) (builtTable s) (upcoming s 20) = .ok (mk v) ∧
      (s.streamDirty = none → ∀ i < n,
        let p := s.dec.bp.toNat + i
        v.testBit (n - 1 - i) =
          (byteAt s .stream (s.latched.hdrOff.toNat + 4 * (p / 32) + (31 - p % 32) / 8)).getLsbD ((31 - p % 32) % 8))

/-- HufDec (41_huffman.md R160, R166): when an entry of the table is a prefix of the upcoming bits, the code is
prefix-free and the codeword's own bits are readable, that entry is the field, however far the window reaches past the
end of the stream. -/
def Obligations.HufFieldValue : Prop :=
  ∀ (s : State) (l : Layout) (t : Fin 17) (mk : Entry → Instr) (w : Nat) (e : Entry),
    classWidth (builtTable s l t).cls = some w → e ∈ (builtTable s l t).entries →
    (∀ x ∈ (builtTable s l t).entries, 1 ≤ x.len.toNat ∧ x.len.toNat ≤ w) →
    (∀ x ∈ (builtTable s l t).entries, ∀ y ∈ (builtTable s l t).entries, x.len.toNat ≤ y.len.toNat →
      y.code >>> (y.len.toNat - x.len.toNat) = x.code → x = y) →
    e.code < 2 ^ e.len.toNat →
    (∀ i < e.len.toNat, streamBit s (s.dec.bp.toNat + i) = some (e.code.testBit (e.len.toNat - 1 - i))) →
    decodeField (.huf l t mk) (builtTable s) (upcoming s 20) = .ok (mk e)

/-- ReadError (60_exceptions.md R331, 40_bitreader.md R135): a field of a running command whose first unreadable bit is
bit i of the bits it must consume ends the command with ERR_IO and ERR_INFO the low 32 bits of that bit's position, and
closes the stream. That the latched copies keep their values is the model's choice (log 40). -/
def Obligations.ReadErrorRaised : Prop :=
  ∀ (s : State) (i : Nat), noActDue s → s.status.busy = true →
    (∃ n mk, fieldAt s = some (.raw n mk) ∧ 1 ≤ n ∧ n ≤ 20 ∧ i < n) ∨
      (∃ l t mk w e, fieldAt s = some (.huf l t mk) ∧ classWidth (builtTable s l t).cls = some w ∧
        (builtTable s l t).entries.find? (entryMatches w (peekBits w 0 (upcoming s 20))) = some e ∧
        e.len.toNat ≤ 20 ∧ i < e.len.toNat) →
    (∀ j < i, wordFails s ((s.dec.bp.toNat + j) / 32) = false) → wordFails s ((s.dec.bp.toNat + i) / 32) = true →
    ∃ t, step s = .next t ∧
      raisedFatal s t { s.status with errIo := true } (s.dec.bp.toNat + i) ∧ t.latched = s.latched

/-- TableInvalid at a parse (41_huffman.md R165): a field whose table is absent, or whose table has no codeword that
starts the upcoming bits, ends the command with ERR_TABLE and ERR_INFO = 256 l + t, and closes the stream. That
the latched copies keep their values is the model's choice (log 40). -/
def Obligations.TableInvalidRaised : Prop :=
  ∀ (s : State) (l : Layout) (t : Fin 17) (mk : Entry → Instr), noActDue s → s.status.busy = true →
    fieldAt s = some (.huf l t mk) →
    (builtTable s l t).cls = 0 ∨ (∃ w, classWidth (builtTable s l t).cls = some w ∧
      ∀ e ∈ (builtTable s l t).entries, entryMatches w (peekBits w 0 (upcoming s 20)) e = false) →
    ∃ u, step s = .next u ∧
      raisedFatal s u { s.status with errTable := true } (256 * layoutCode l + t.val) ∧ u.latched = s.latched

/-- The three window widths compute the same function (41_huffman.md R164): for a table whose codewords fit the narrower
window, the class does not matter. -/
def Obligations.WidthIndependence : Prop :=
  ∀ (es : List Entry) (bits : List StreamBit) (a b : BitVec 2) (w w' : Nat),
    classWidth a = some w → classWidth b = some w' →
    (∀ e ∈ es, 1 ≤ e.len.toNat ∧ e.len.toNat ≤ w ∧ e.len.toNat ≤ w') →
    decodeHuf ⟨a, es⟩ bits = decodeHuf ⟨b, es⟩ bits

/-- The command words of 30_encoding.md R101 and three fields written out bit by bit decode to what they stand for: FWDJUMP
42, SCFRAW_A 40 (43_layout_a.md R214) and RESD_B -1 under the code of its example (44_layout_b.md R242). -/
def Obligations.WordsDecode : Prop :=
  decodeCmd 0 = .ok .nop ∧ decodeCmd 1 = .ok .build ∧ decodeCmd 2 = .ok .openCmd ∧ decodeCmd 3 = .ok .resync ∧
  decodeCmd 4 = .ok .decode ∧ decodeCmd 5 = .ok .replay ∧ decodeCmd 6 = .ok .setpos ∧ decodeCmd 7 = .ok .seed ∧
  decodeField (.raw 20 fun x => .fwdjump (.ofNat 20 x)) (fun _ _ => ⟨0, []⟩)
    ([false, false, false, false, false, false, false, false, false, false, false, false, false, false, true, false, true,
      false, true, false].map some) = .ok (.fwdjump 42) ∧
  decodeField (.raw 6 fun x => .scfrawA .l 0 0 (.ofNat 6 x)) (fun _ _ => ⟨0, []⟩)
    ([true, false, true, false, false, false].map some) = .ok (.scfrawA .l 0 0 40) ∧
  decodeField (.huf .b 0 (.resdB .l 1)) (fun _ _ => ⟨1, [⟨0xC0000000#32, 2, 1⟩, ⟨0x80000000#32, 2, -1⟩, ⟨0, 1, 0⟩]⟩)
    ([true, false].map some) = .ok (.resdB .l 1 ⟨0x80000000#32, 2, -1⟩)

/-- Decode and encode agree. Commands, in both directions: a CMD word decodes to a command exactly when that command
encodes to it (30_encoding.md R101, R116). Fields, for every well-formed instruction of level 2 with every operand:
its bits, followed by anything, decode to it, in any table set where its entry's table is prefix-free and of a class
its codewords fit. -/
def Obligations.CodesAgree : Prop :=
  (∀ (w : Word) (i : Instr), decodeCmd w = .ok i ↔ i.encode = .word w) ∧
  ∀ (i : Instr) (v : Bool) (f : Field) (tables : Layout → Fin 17 → Table) (rest : List StreamBit), i.wf = true →
    i.field v = some f →
    (∀ l t mk, f = .huf l t mk →
      ∃ e w, i.encode = .bits (entryCode e) ∧ i = mk e ∧ e ∈ (tables l t).entries ∧ classWidth (tables l t).cls = some w ∧
        (∀ x ∈ (tables l t).entries, x.wf = true ∧ x.len.toNat ≤ w) ∧
        ∀ x ∈ (tables l t).entries, ∀ y ∈ (tables l t).entries, x.len.toNat ≤ y.len.toNat →
          y.code >>> (y.len.toNat - x.len.toNat) = x.code → x = y) →
    ∃ bs, i.encode = .bits bs ∧ decodeField f tables (bs.map some ++ rest) = .ok i

/-! The host's side. -/

/-- The access kinds of the control registers (10_state.md R31), at every offset of the window: an idle host write to
an RW register changes what that register reads as to the word's named bits, and no other register; a write to any
other offset but CMD and TDIR changes nothing; CMD and the reserved offsets read 0, TDIR and TCLS read as their words.
STATUS shows its flags at the bits of R33, and every other register reads as the word of State that the commands use
(R34 to R53). -/
def Obligations.RegisterAccess : Prop :=
  ∀ (s : State) (v : Word), s.status.busy = false →
    let rw : List (Nat × Word) := [(0x0C, 0xFF), (0x10, 0xFFFFFFFF), (0x14, 0x1F), (0x18, 0xFFFFFFFF), (0x1C, 1), (0x20, 0x7FF),
      (0x24, 0xFFFFFFFF), (0x28, 1), (0x2C, 0xFFFFFFFF), (0x30, 0xFFFFFFFF), (0x34, 1), (0x54, 0xFFFFFFFF),
      (0x58, 0xFFFFFFFF), (0x5C, 0xFFFFFFFF)]
    (∀ x ∈ rw, ∃ t, hostStep (.write .reg x.1 32 v) s = .next t ∧ t = { s with regs := t.regs } ∧
      regRead t x.1 = v &&& x.2 ∧ ∀ a, a ≠ x.1 → regRead t a = regRead s a) ∧
    (∀ a, a % 4 = 0 → a < 0x300 → a ≠ 0 → (∀ x ∈ rw, a ≠ x.1) → a < 0x100 ∨ 0x188 ≤ a →
      hostStep (.write .reg a 32 v) s = .next s) ∧
    (∀ a, a % 4 = 0 → a = 0 ∨ (0x64 ≤ a ∧ a < 0x100) ∨ (0x188 ≤ a ∧ a < 0x200) ∨ (0x288 ≤ a ∧ a < 0x300) →
      hostStep (.read .reg a 32) s = .next { s with hostData := 0 :: s.hostData }) ∧
    (∃ w, hostStep (.read .reg 0x04 32) s = .next { s with hostData := w :: s.hostData } ∧ showsStatus s.status w) ∧
    (∀ x ∈ registerWords s, hostStep (.read .reg x.1 32) s = .next { s with hostData := x.2 :: s.hostData }) ∧
    ∀ i : Fin 34,
      hostStep (.read .reg (0x100 + 4 * i.val) 32) s = .next { s with hostData := s.tdir[i].setWidth 32 :: s.hostData } ∧
      hostStep (.read .reg (0x200 + 4 * i.val) 32) s = .next { s with hostData := s.tcls[i].setWidth 32 :: s.hostData }

/-- TDIR and LIT are writable while TABLES_READY = 0 and read-only afterwards; TAB is read-only for the host always
(10_state.md R66, R67). That TDIR keeps the named 25 bits of the word alone is DEDUCED from R31, against a TDIR with
reserved bits set in 93_implementation_defined.md U11 (log 16). -/
def Obligations.TablesReadOnlyOnceBuilt : Prop :=
  ∀ (s : State) (v : Word) (i : Fin 34) (j k : Nat), s.status.busy = false → j < 1024 → k < 2048 →
    (s.status.tablesReady = true → hostStep (.write .reg (0x100 + 4 * i.val) 32 v) s = .next s ∧
      hostStep (.write .lit (4 * j) 32 v) s = .next s) ∧
    (s.status.tablesReady = false →
      hostStep (.write .reg (0x100 + 4 * i.val) 32 v) s = .next { s with tdir := s.tdir.set i (v.setWidth 25) } ∧
      ∃ t, hostStep (.write .lit (4 * j) 32 v) s = .next t ∧ t = { s with lit := t.lit } ∧ wordAt t .lit (4 * j) v ∧
        ∀ sp a, (sp = .lit → a < 4 * j ∨ 4 * j + 4 ≤ a) → byteAt t sp a = byteAt s sp a) ∧
    hostStep (.write .tab (4 * k) 32 v) s = .next s

/-- Byte order. A stream bit p of a readable word, while the host keeps STREAM unchanged, is bit 31 - p mod 32 of the word
whose least significant byte stands at the lowest address (20_memory.md R75). A host read of LIT, TAB or OUT returns the
word whose bits 7:0 are the byte at the lowest address (R76). A host write to OUT stores in that order or is ignored, the
model's choice (log 20). -/
def Obligations.ByteOrder : Prop :=
  (∀ (s : State) (p : Nat), s.streamDirty = none → wordFails s (p / 32) = false →
    ∃ w : Word, wordAt s .stream (s.latched.hdrOff.toNat + 4 * (p / 32)) w ∧
      streamBit s p = some (w.getLsbD (31 - p % 32))) ∧
  (∀ (s : State) (a : Nat) (w : Window) (sp : Space), s.status.busy = false → a % 4 = 0 →
    (w = .lit ∧ sp = .lit ∧ a < 4096) ∨ (w = .tab ∧ sp = .tab ∧ a < 8192) ∨ (w = .out ∧ sp = .out ∧ a < 18432) →
    ∃ v, wordAt s sp a v ∧ hostStep (.read w a 32) s = .next { s with hostData := v :: s.hostData }) ∧
  ∀ (s : State) (a : Nat) (v : Word), s.status.busy = false → a % 4 = 0 → a < 18432 →
    ∃ t, hostStep (.write .out a 32 v) s = .next t ∧
      (t = s ∨ (t = { s with out := t.out } ∧ wordAt t .out a v ∧
        ∀ x, x < a ∨ a + 4 ≤ x → byteAt t .out x = byteAt s .out x))

/-- The host changes a byte of STREAM. With no stream open nothing else changes. Under an open stream every bit of a readable
word is a free value until the next OPEN or SETPOS, which discard what was buffered; no other command does
(70_reset_and_hazards.md R374, 20_memory.md R84). That the free values are those of the occasion, the bit cursor of the
fetch and the bit is the model's choice (log 21), and so is that a byte at or beyond StreamLen counts as any other
(log 41). -/
def Obligations.StreamChange : Prop :=
  (∀ (s : State) (a : Nat) (b : Byte), a < 2 ^ 32 →
    ∃ t, hostStep (.putStream a b) s = .next t ∧ byteAt t .stream a = b ∧
      (∀ sp x, sp ≠ .stream ∨ x ≠ a → byteAt t sp x = byteAt s sp x) ∧
      (s.status.opened = false → t = { s with stream := t.stream }) ∧
      (s.status.opened = true →
        t = { s with stream := t.stream, streamDirty := some s.freeCtr, freeCtr := s.freeCtr + 1 } ∧
        ∀ (u : State) (p : Nat), u.streamDirty = t.streamDirty → wordFails u (p / 32) = false →
          streamBit u p = some (Config.staleBit s.freeCtr u.dec.bp.toNat p))) ∧
  (∀ s t : State, exec .openCmd s = .next t → t.status.opened = true → s.status.tablesReady = true → t.streamDirty = none) ∧
  (∀ s t : State, commandAllowed s 6 → exec .setpos s = .next t → t.streamDirty = none) ∧
  ∀ (i : Instr) (s t : State), exec i s = .next t → i ≠ .openCmd → i ≠ .setpos → t.streamDirty = s.streamDirty

/-- Hardware reset (10_state.md R69, 70_reset_and_hazards.md R360): STATUS, the registers, the counters, the arrays, TDIR
and TCLS at the values of the table, in State.reset and after the reset input from any state. -/
def Obligations.ResetValues : Prop :=
  let good (t : State) : Prop :=
    statusWord t.status = 0 ∧ t.regs = ⟨0, 0, 0, 0, 0, false, 0, 0, false, 0, 0, false, 0, 0, 0, 0⟩ ∧
    phaseCode t.phase = 0 ∧ t.dec.bp = 0 ∧ t.dec.frameCtr = 0 ∧ t.dec.bitsUsed = 0 ∧ t.frame.fwdJump = 0 ∧
    t.dec.maxUsed = 0 ∧ t.dec.maxUsedReg = 0 ∧
    (∀ c n, resOf t c n = 0 ∧ bankGet t.dec.lastScf c n = 0 ∧ ∀ g : Segment, (bankGet t.dec.scf c n)[g] = 0) ∧
    (∀ n : Subband, t.dec.ms[n] = false) ∧
    (∀ (c : Chan) (k : Slot) (n : Subband), (chanGet t.dec.y c)[k][n] = Config.zero) ∧
    t.dec.hist = ⟨Config.hist0, Config.hist0⟩ ∧ t.dec.prng = Config.prngInit 0 ∧ t.dec.dith = Config.dith0 ∧
    (∀ i : Fin 34, t.tdir[i] = 0 ∧ t.tcls[i] = 0)
  good State.reset ∧ ∀ s : State, ∃ t, hostStep .reset s = .next t ∧ good t

/-! Invariants and whole-machine rules. -/

/-- Every step keeps every memory in its canonical form: addresses strictly rising. The form is a choice of the model
(log 9). -/
def Obligations.MemoryCanonicalKept : Prop :=
  ∀ s t : State, MemoryCanonical s → step s = .next t → MemoryCanonical t

/-- Every step keeps the sequencer, BUSY, OPEN and PHASE in agreement (47_commands.md R310, 10_state.md R53). The
sequencer is the model's own state (log 1), and when PHASE changes is DEDUCED (log 17). -/
def Obligations.CoherentKept : Prop :=
  ∀ s t : State, Coherent s → step s = .next t → Coherent t

/-- Every step keeps FRAME_CTR <= Frames while a stream is open (10_state.md R46). -/
def Obligations.FrameCounterKept : Prop :=
  ∀ s t : State, Coherent s → FrameCounterBounded s → step s = .next t → FrameCounterBounded t

/-- Every step keeps every resolution of an open stream in its domain, and 0 above MaxBand (10_state.md R54,
42_frame_parser.md R183). -/
def Obligations.ResolutionsLegalKept : Prop :=
  ∀ s t : State, Coherent s → ResolutionsLegal s → step s = .next t → ResolutionsLegal t

/-- The machine after reset satisfies the four invariants. -/
def Obligations.InvariantsAtReset : Prop :=
  MemoryCanonical State.reset ∧ Coherent State.reset ∧ FrameCounterBounded State.reset ∧ ResolutionsLegal State.reset

/-- The block never stops in the middle of a command: from every state the invariants allow, a step of a running command
is a next state (a raised error among them), never a fault or a refusal (60_exceptions.md R340, R349). -/
def Obligations.BusyStepCompletes : Prop :=
  ∀ s : State, Coherent s → ResolutionsLegal s → noActDue s → s.status.busy = true → ∃ t, step s = .next t

/-- A step of a running DECODE or REPLAY writes neither LIT, TAB, TDIR, TCLS, STREAM nor the latched descriptor, nor a
register the host writes (20_memory.md R70, R83; 70_reset_and_hazards.md R372, R373). That the latched copies keep over a
fatal raise is the model's choice (log 40). -/
def Obligations.BlockLeavesHostData : Prop :=
  ∀ s t : State, noActDue s → s.status.busy = true → step s = .next t →
    t.tdir = s.tdir ∧ t.tcls = s.tcls ∧ t.latched = s.latched ∧ t.streamFault = s.streamFault ∧
    t.streamDirty = s.streamDirty ∧ t.host = s.host ∧ t.hostData = s.hostData ∧
    t.regs = { s.regs with errInfo := t.regs.errInfo, samplesOut := t.regs.samplesOut } ∧
    t.status.tablesReady = s.status.tablesReady ∧ ∀ sp a, sp ≠ .out → byteAt t sp a = byteAt s sp a

/-- Every DECODE and REPLAY terminates (70_reset_and_hazards.md R378): with no host act due, a running command of a
state the invariants allow ends within 6000 steps. What one step is, and so the bound, is a choice of the model (log 1). -/
def Obligations.CommandTerminates : Prop :=
  ∀ s : State, Coherent s → ResolutionsLegal s → noActDue s → s.status.busy = true →
    ∃ (k : Nat) (t : State), k ≤ 6000 ∧
      (Host.Core.run Sys2Proof.core k s : Host.Outcome State Fault Refusal) = .next t ∧ t.status.busy = false
end

