-- ==== Sys2Proof/Laws/Bank.lean ====
section
/-! SUPPORT. Reading a register file after writing it. -/

namespace Sys2Proof.Machine

@[simp] theorem chanGet_chanSet_self {α : Type} (p : PerChan α) (c : Chan) (x : α) : chanGet (chanSet p c x) c = x := by
  cases c <;> rfl

theorem chanGet_chanSet_other {α : Type} (p : PerChan α) {c d : Chan} (h : d ≠ c) (x : α) :
    chanGet (chanSet p c x) d = chanGet p d := by
  cases c <;> cases d <;> first | rfl | exact absurd rfl h

@[simp] theorem bankGet_bankSet_self {α : Type} (b : Bank α) (c : Chan) (n : Subband) (x : α) :
    bankGet (bankSet b c n x) c n = x := by
  simp [bankGet, bankSet]

theorem bankGet_bankSet_other {α : Type} (b : Bank α) {c d : Chan} {n m : Subband} (h : (d, m) ≠ (c, n)) (x : α) :
    bankGet (bankSet b c n x) d m = bankGet b d m := by
  by_cases hc : d = c
  · subst hc
    have hm : n.val ≠ m.val := fun e => h (by rw [Fin.ext e])
    simp [bankGet, bankSet, hm]
  · simp [bankGet, bankSet, chanGet_chanSet_other b hc]

theorem bankGet_bankSet {α : Type} (b : Bank α) (c d : Chan) (n m : Subband) (x : α) :
    bankGet (bankSet b c n x) d m = if d = c ∧ m = n then x else bankGet b d m := by
  split
  · next h => rw [h.1, h.2, bankGet_bankSet_self]
  · next h => exact bankGet_bankSet_other b (fun e => h (by simpa using e)) x

@[simp] theorem bankGet_bankFill {α : Type} (x : α) (c : Chan) (n : Subband) : bankGet (bankFill x) c n = x := by
  cases c <;> simp [bankGet, bankFill, chanGet]

@[simp] theorem bankGet_bankOf {α : Type} (f : Chan → Subband → α) (c : Chan) (n : Subband) :
    bankGet (bankOf f) c n = f c n := by
  cases c <;> simp [bankGet, bankOf, chanGet]

end Sys2Proof.Machine
end

