-- ==== Sys2Proof/Laws/Bits.lean ====
section
/-! SUPPORT. The bit reader over a list of upcoming bits: what a field of n bits reads as, and where it fails. -/

namespace Sys2Proof

/-- Bits that all can be read make a number, the first bit the most significant (40_bitreader.md R131). -/
theorem readBits_ok (n i v : Nat) (bits : List StreamBit) (b : Nat → Bool)
    (h : ∀ j < n, bits[j]? = some (some (b j))) :
    ∃ w, readBits n i v bits = .ok (v * 2 ^ n + w) ∧ w < 2 ^ n ∧ ∀ j < n, w.testBit (n - 1 - j) = b j := by
  induction n generalizing i v bits b with
  | zero => exact ⟨0, by simp [readBits], by simp, by simp⟩
  | succ n ih =>
    cases bits with
    | nil => have := h 0 (by omega); simp at this
    | cons x xs =>
      have h0 := h 0 (by omega)
      simp only [List.getElem?_cons_zero, Option.some.injEq] at h0
      subst h0
      obtain ⟨w, h1, h2, h3⟩ := ih (i + 1) (2 * v + (b 0).toNat) xs (fun j => b (j + 1))
        (fun j hj => by simpa using h (j + 1) (by omega))
      refine ⟨(b 0).toNat * 2 ^ n + w, ?_, ?_, ?_⟩
      · rw [readBits, h1, pow_succ]
        congr 1
        ring
      · have := Bool.toNat_le (b 0)
        rw [pow_succ]
        nlinarith
      · intro j hj
        cases j with
        | zero =>
          simp only [Nat.add_sub_cancel, Nat.sub_zero]
          rw [Nat.mul_comm, Nat.testBit_two_pow_mul_add _ h2, if_neg (by omega)]
          cases b 0 <;> simp
        | succ j =>
          rw [show n + 1 - 1 - (j + 1) = n - 1 - j by omega, Nat.mul_comm, Nat.testBit_two_pow_mul_add _ h2,
            if_pos (by omega), h3 j (by omega)]

/-- The first bit that cannot be read is the one that fails (40_bitreader.md R135). -/
theorem readBits_readFail (n k v i : Nat) (bits : List StreamBit) (hi : i < n)
    (h : ∀ j < i, ∃ b, bits[j]? = some (some b)) (hf : bits[i]? = some none) :
    readBits n k v bits = .error (.readFail (k + i)) := by
  induction n generalizing k v i bits with
  | zero => omega
  | succ n ih =>
    cases bits with
    | nil => simp at hf
    | cons x xs =>
      cases i with
      | zero => simp only [List.getElem?_cons_zero, Option.some.injEq] at hf; subst hf; simp [readBits]
      | succ i =>
        obtain ⟨b, hb⟩ := h 0 (by omega)
        simp only [List.getElem?_cons_zero, Option.some.injEq] at hb
        subst hb
        rw [readBits, ih (k + 1) _ i xs (by omega) (fun j hj => by simpa using h (j + 1) (by omega)) (by simpa using hf)]
        congr 2
        omega

/-- Reading fails in one way only. -/
theorem readBits_error (n i v : Nat) (bits : List StreamBit) (e : DecodeError) (h : readBits n i v bits = .error e) :
    ∃ j, e = .readFail j := by
  induction n generalizing i v bits with
  | zero => simp [readBits] at h
  | succ n ih =>
    rcases bits with _ | ⟨_ | b, bs⟩
    · exact ⟨i, by simpa [readBits] using h.symm⟩
    · exact ⟨i, by simpa [readBits] using h.symm⟩
    · exact ih _ _ _ h

/-- The first of the n bits that cannot be read (40_bitreader.md R135). -/
theorem firstFail_some (n k i : Nat) (bits : List StreamBit) (hi : i < n)
    (h : ∀ j < i, ∃ b, bits[j]? = some (some b)) (hf : bits[i]? = some none) : firstFail n k bits = some (k + i) := by
  induction n generalizing k i bits with
  | zero => omega
  | succ n ih =>
    cases bits with
    | nil => simp at hf
    | cons x xs =>
      cases i with
      | zero => simp only [List.getElem?_cons_zero, Option.some.injEq] at hf; subst hf; simp [firstFail]
      | succ i =>
        obtain ⟨b, hb⟩ := h 0 (by omega)
        simp only [List.getElem?_cons_zero, Option.some.injEq] at hb
        subst hb
        rw [firstFail, ih (k + 1) i xs (by omega) (fun j hj => by simpa using h (j + 1) (by omega)) (by simpa using hf)]
        congr 1
        omega

/-- No failure when every bit can be read. -/
theorem firstFail_none (n k : Nat) (bits : List StreamBit) (h : ∀ j < n, ∃ b, bits[j]? = some (some b)) :
    firstFail n k bits = none := by
  induction n generalizing k bits with
  | zero => simp [firstFail]
  | succ n ih =>
    cases bits with
    | nil => obtain ⟨b, hb⟩ := h 0 (by omega); simp at hb
    | cons x xs =>
      obtain ⟨b, hb⟩ := h 0 (by omega)
      simp only [List.getElem?_cons_zero, Option.some.injEq] at hb
      subst hb
      rw [firstFail]
      exact ih (k + 1) xs fun j hj => by simpa using h (j + 1) (by omega)

/-- The peeked window: bits that cannot be read count as 0 (40_bitreader.md R133). -/
theorem peekBits_spec (n v : Nat) (bits : List StreamBit) :
    ∃ w, peekBits n v bits = v * 2 ^ n + w ∧ w < 2 ^ n ∧
      ∀ j < n, w.testBit (n - 1 - j) = (bits[j]?.getD none).getD false := by
  induction n generalizing v bits with
  | zero => exact ⟨0, by simp [peekBits], by simp, by simp⟩
  | succ n ih =>
    cases bits with
    | nil =>
      obtain ⟨w, h1, h2, h3⟩ := ih (2 * v) []
      refine ⟨w, ?_, ?_, ?_⟩
      · rw [peekBits, h1, pow_succ]; ring
      · rw [pow_succ]; omega
      · intro j hj
        cases j with
        | zero => simpa using Nat.testBit_lt_two_pow h2
        | succ j => rw [show n + 1 - 1 - (j + 1) = n - 1 - j by omega]; simpa using h3 j (by omega)
    | cons x xs =>
      obtain ⟨w, h1, h2, h3⟩ := ih (2 * v + (x.getD false).toNat) xs
      refine ⟨(x.getD false).toNat * 2 ^ n + w, ?_, ?_, ?_⟩
      · rw [peekBits, h1, pow_succ]; ring
      · have := Bool.toNat_le (x.getD false)
        rw [pow_succ]
        nlinarith
      · intro j hj
        cases j with
        | zero =>
          simp only [Nat.add_sub_cancel, Nat.sub_zero]
          rw [Nat.mul_comm, Nat.testBit_two_pow_mul_add _ h2, if_neg (by omega)]
          cases hx : x.getD false <;> simp [hx]
        | succ j =>
          rw [show n + 1 - 1 - (j + 1) = n - 1 - j by omega, Nat.mul_comm, Nat.testBit_two_pow_mul_add _ h2,
            if_pos (by omega), h3 j (by omega)]
          simp

/-- Bit j of the string a field is written as. -/
theorem rawCode_getElem? (n v j : Nat) (h : j < n) : (rawCode n v)[j]? = some (v.testBit (n - 1 - j)) := by
  induction n generalizing j with
  | zero => omega
  | succ n ih =>
    cases j with
    | zero => simp [rawCode]
    | succ j => rw [rawCode, List.getElem?_cons_succ, ih j (by omega), show n + 1 - 1 - (j + 1) = n - 1 - j by omega]

@[simp] theorem rawCode_length (n v : Nat) : (rawCode n v).length = n := by
  induction n with
  | zero => rfl
  | succ n ih => rw [rawCode, List.length_cons, ih]

end Sys2Proof
end

