-- ==== Sys2Proof/Laws/Memory.lean ====
section
/-! SUPPORT. Memories: a read after a write, and the canonical form every operation keeps. -/

namespace Sys2Proof.Machine

/-- A block lists its bytes at consecutive addresses and nothing else. -/
theorem memGet_memBlock (bs : List Byte) (a x : Nat) :
    memGet (memBlock a bs) x = if a ≤ x then bs[x - a]? else none := by
  induction bs generalizing a with
  | nil => simp [memBlock, memGet]
  | cons b bs ih =>
    by_cases h : a = x
    · subst h; simp [memBlock, memGet]
    · have := ih (a + 1)
      simp only [memGet, memBlock, List.find?_cons] at this ⊢
      rw [show (a == x) = false from by simp [h]]
      simp only [this]
      by_cases h1 : a ≤ x
      · have h2 : a + 1 ≤ x := by omega
        have h3 : x - a = x - (a + 1) + 1 := by omega
        simp [h1, h2, h3]
      · have h2 : ¬ a + 1 ≤ x := by omega
        simp [h1, h2]

theorem memGet_append (m n : Memory) (x : Nat) : memGet (m ++ n) x = (memGet m x).or (memGet n x) := by
  simp only [memGet, List.find?_append]
  cases m.find? fun y => y.1 == x <;> rfl

/-- A filter on addresses keeps what it lets through. -/
theorem memGet_filter (m : Memory) (p : Nat → Bool) (x : Nat) :
    memGet (m.filter fun y => p y.1) x = if p x then memGet m x else none := by
  induction m with
  | nil => simp [memGet]
  | cons y ys ih =>
    simp only [memGet] at ih ⊢
    rw [List.filter_cons]
    by_cases hy : y.1 = x
    · subst hy
      split
      · simp_all
      · next hp => rw [ih]; simp [hp]
    · have hb : (y.1 == x) = false := by simp [hy]
      split
      · rw [List.find?_cons, hb, ih, List.find?_cons, hb]
      · rw [ih, List.find?_cons, hb]

/-- A read after a write gives the written byte inside the written range and the old byte outside it. -/
theorem memGet_memWrite (m : Memory) (a : Nat) (bs : List Byte) (x : Nat) :
    memGet (memWrite m a bs) x = if a ≤ x ∧ x < a + bs.length then bs[x - a]? else memGet m x := by
  rw [memWrite, memGet_append, memGet_append, memGet_memBlock,
    memGet_filter m (fun y => decide (y < a)), memGet_filter m (fun y => decide (a + bs.length ≤ y))]
  by_cases h1 : x < a
  · have : ¬ a ≤ x := by omega
    have h2 : ¬ a + bs.length ≤ x := by omega
    simp [h1, this, h2]
  · by_cases h2 : x < a + bs.length
    · have h3 : x - a < bs.length := by omega
      have h4 : a ≤ x := by omega
      simp [h1, h2, h4, h3]
    · have h3 : bs.length ≤ x - a := by omega
      have h4 : a ≤ x := by omega
      simp [h1, h2, h4, List.getElem?_eq_none h3, show a + bs.length ≤ x by omega]

theorem ramByte_ramWrite (sp : Space) (m : Ram) (a : Nat) (bs : List Byte) (x : Nat) :
    ramByte sp (ramWrite m a bs) x = if h : a ≤ x ∧ x < a + bs.length then bs[x - a]'(by omega) else ramByte sp m x := by
  simp only [ramByte, ramWrite, memGet_memWrite]
  split
  · next h => simp [List.getElem?_eq_getElem (show x - a < bs.length by omega)]
  · rfl

/-- Outside the written range a byte reads as before. -/
theorem ramByte_ramWrite_outside (sp : Space) (m : Ram) (a : Nat) (bs : List Byte) (x : Nat)
    (h : x < a ∨ a + bs.length ≤ x) : ramByte sp (ramWrite m a bs) x = ramByte sp m x := by
  rw [ramByte_ramWrite, dif_neg (by omega)]

@[simp] theorem length_wordBytes (w : Word) : (wordBytes w).length = 4 := rfl

theorem append_wordBytes (w : Word) :
    (w.extractLsb' 24 8 ++ w.extractLsb' 16 8 ++ w.extractLsb' 8 8 ++ w.extractLsb' 0 8 : BitVec 32) = w := by
  apply BitVec.eq_of_getLsbD_eq
  intro i hi
  simp only [BitVec.getLsbD_append, BitVec.getLsbD_extractLsb']
  by_cases h1 : i < 8
  · simp [h1]
  · by_cases h2 : i - 8 < 8
    · simp [h1, h2, show 8 + (i - 8) = i by omega]
    · by_cases h3 : i - 8 - 8 < 8
      · simp [h1, h2, h3, show 16 + (i - 8 - 8) = i by omega]
      · simp [h1, h2, h3, show 24 + (i - 8 - 8 - 8) = i by omega, show i - 8 - 8 - 8 < 8 by omega]

/-- A 32-bit unit reads back as it was written (20_memory.md R76). -/
@[simp] theorem ramWord_ramWrite_wordBytes (sp : Space) (m : Ram) (a : Nat) (w : Word) :
    ramWord sp (ramWrite m a (wordBytes w)) a = w := by
  have h : ∀ i, (hi : i < 4) → ramByte sp (ramWrite m a (wordBytes w)) (a + i) = (wordBytes w)[i] := by
    intro i hi
    rw [ramByte_ramWrite, dif_pos (by rw [length_wordBytes]; omega)]
    congr 1
    omega
  have h0 := h 0 (by omega)
  rw [Nat.add_zero] at h0
  rw [ramWord, h 3 (by omega), h 2 (by omega), h 1 (by omega), h0]
  exact append_wordBytes w

/-- Bit b of a 32-bit unit stands in its byte b div 8 (20_memory.md R76). -/
theorem ramWord_getLsbD (sp : Space) (m : Ram) (a b : Nat) (hb : b < 32) :
    (ramWord sp m a).getLsbD b = (ramByte sp m (a + b / 8)).getLsbD (b % 8) := by
  obtain ⟨q, r, hq, hr, rfl⟩ : ∃ q r, q < 4 ∧ r < 8 ∧ b = 8 * q + r := ⟨b / 8, b % 8, by omega, by omega, by omega⟩
  rw [show (8 * q + r) / 8 = q by omega, show (8 * q + r) % 8 = r by omega, ramWord]
  simp only [BitVec.getLsbD_append]
  interval_cases q
  · simp [hr]
  · simp [hr]
  · rw [if_neg (by omega), if_neg (by omega), if_pos (by omega), show 8 * 2 + r - 8 - 8 = r by omega]
  · rw [if_neg (by omega), if_neg (by omega), if_neg (by omega), show 8 * 3 + r - 8 - 8 - 8 = r by omega]

/-! The canonical form. -/

theorem memBlock_bounds (bs : List Byte) (a : Nat) : ∀ x ∈ memBlock a bs, a ≤ x.1 ∧ x.1 < a + bs.length := by
  induction bs generalizing a with
  | nil => simp [memBlock]
  | cons b bs ih =>
    intro x hx
    rcases List.mem_cons.1 hx with h | h
    · subst h; simp
    · have := ih (a + 1) x h
      simp only [List.length_cons]; omega

theorem wf_memBlock (bs : List Byte) (a : Nat) : Memory.wf (memBlock a bs) := by
  induction bs generalizing a with
  | nil => exact List.Pairwise.nil
  | cons b bs ih =>
    refine List.Pairwise.cons (fun x hx => ?_) (ih (a + 1))
    have := memBlock_bounds bs (a + 1) x hx
    show a < x.1
    omega

/-- A write keeps the canonical form. -/
theorem wf_memWrite (m : Memory) (a : Nat) (bs : List Byte) (h : Memory.wf m) : Memory.wf (memWrite m a bs) := by
  unfold Memory.wf memWrite
  rw [List.pairwise_append, List.pairwise_append]
  refine ⟨⟨h.filter _, wf_memBlock bs a, ?_⟩, h.filter _, ?_⟩
  · intro x hx y hy
    have h1 := (List.mem_filter.1 hx).2
    have h2 := memBlock_bounds bs a y hy
    simp only [decide_eq_true_eq] at h1
    omega
  · intro x hx y hy
    have h2 := (List.mem_filter.1 hy).2
    simp only [decide_eq_true_eq] at h2
    rcases List.mem_append.1 hx with h1 | h1
    · have h1 := (List.mem_filter.1 h1).2
      simp only [decide_eq_true_eq] at h1
      omega
    · have h1 := memBlock_bounds bs a x h1
      omega

theorem wf_ramWrite (m : Ram) (a : Nat) (bs : List Byte) (h : m.cells.wf) : (ramWrite m a bs).cells.wf :=
  wf_memWrite m.cells a bs h

theorem wf_ramForget (m : Ram) : (ramForget m).cells.wf := List.Pairwise.nil

end Sys2Proof.Machine
end

