-- ==== Sys2Proof/Laws/State.lean ====
section
/-! SUPPORT. One lemma per field per update: no later proof unfolds a record update. -/

namespace Sys2Proof.Machine

/-! `advance`. -/

@[simp] theorem advance_status (s : State) (k : Nat) : (advance s k).status = s.status := rfl
@[simp] theorem advance_regs (s : State) (k : Nat) : (advance s k).regs = s.regs := rfl
@[simp] theorem advance_phase (s : State) (k : Nat) : (advance s k).phase = s.phase := rfl
@[simp] theorem advance_latched (s : State) (k : Nat) : (advance s k).latched = s.latched := rfl
@[simp] theorem advance_dec_bp (s : State) (k : Nat) : (advance s k).dec.bp = s.dec.bp + BitVec.ofNat 64 k := rfl
@[simp] theorem advance_dec_frameCtr (s : State) (k : Nat) : (advance s k).dec.frameCtr = s.dec.frameCtr := rfl
@[simp] theorem advance_dec_bitsUsed (s : State) (k : Nat) : (advance s k).dec.bitsUsed = s.dec.bitsUsed := rfl
@[simp] theorem advance_dec_maxUsed (s : State) (k : Nat) : (advance s k).dec.maxUsed = s.dec.maxUsed := rfl
@[simp] theorem advance_dec_maxUsedReg (s : State) (k : Nat) : (advance s k).dec.maxUsedReg = s.dec.maxUsedReg := rfl
@[simp] theorem advance_dec_res (s : State) (k : Nat) : (advance s k).dec.res = s.dec.res := rfl
@[simp] theorem advance_dec_ms (s : State) (k : Nat) : (advance s k).dec.ms = s.dec.ms := rfl
@[simp] theorem advance_dec_scf (s : State) (k : Nat) : (advance s k).dec.scf = s.dec.scf := rfl
@[simp] theorem advance_dec_lastScf (s : State) (k : Nat) : (advance s k).dec.lastScf = s.dec.lastScf := rfl
@[simp] theorem advance_dec_y (s : State) (k : Nat) : (advance s k).dec.y = s.dec.y := rfl
@[simp] theorem advance_dec_hist (s : State) (k : Nat) : (advance s k).dec.hist = s.dec.hist := rfl
@[simp] theorem advance_dec_prng (s : State) (k : Nat) : (advance s k).dec.prng = s.dec.prng := rfl
@[simp] theorem advance_dec_dith (s : State) (k : Nat) : (advance s k).dec.dith = s.dec.dith := rfl
@[simp] theorem advance_frame (s : State) (k : Nat) : (advance s k).frame = s.frame := rfl
@[simp] theorem advance_tdir (s : State) (k : Nat) : (advance s k).tdir = s.tdir := rfl
@[simp] theorem advance_tcls (s : State) (k : Nat) : (advance s k).tcls = s.tcls := rfl
@[simp] theorem advance_lit (s : State) (k : Nat) : (advance s k).lit = s.lit := rfl
@[simp] theorem advance_tab (s : State) (k : Nat) : (advance s k).tab = s.tab := rfl
@[simp] theorem advance_out (s : State) (k : Nat) : (advance s k).out = s.out := rfl
@[simp] theorem advance_stream (s : State) (k : Nat) : (advance s k).stream = s.stream := rfl
@[simp] theorem advance_streamFault (s : State) (k : Nat) : (advance s k).streamFault = s.streamFault := rfl
@[simp] theorem advance_streamDirty (s : State) (k : Nat) : (advance s k).streamDirty = s.streamDirty := rfl
@[simp] theorem advance_run (s : State) (k : Nat) : (advance s k).run = s.run := rfl
@[simp] theorem advance_host (s : State) (k : Nat) : (advance s k).host = s.host := rfl
@[simp] theorem advance_hostData (s : State) (k : Nat) : (advance s k).hostData = s.hostData := rfl
@[simp] theorem advance_freeCtr (s : State) (k : Nat) : (advance s k).freeCtr = s.freeCtr := rfl

/-! `setRes`. -/

@[simp] theorem setRes_status (s : State) (c : Chan) (n : Subband) (r : BitVec 8) : (setRes s c n r).status = s.status := rfl
@[simp] theorem setRes_regs (s : State) (c : Chan) (n : Subband) (r : BitVec 8) : (setRes s c n r).regs = s.regs := rfl
@[simp] theorem setRes_phase (s : State) (c : Chan) (n : Subband) (r : BitVec 8) : (setRes s c n r).phase = s.phase := rfl
@[simp] theorem setRes_latched (s : State) (c : Chan) (n : Subband) (r : BitVec 8) : (setRes s c n r).latched = s.latched := rfl
@[simp] theorem setRes_dec_bp (s : State) (c : Chan) (n : Subband) (r : BitVec 8) : (setRes s c n r).dec.bp = s.dec.bp := rfl
@[simp] theorem setRes_dec_frameCtr (s : State) (c : Chan) (n : Subband) (r : BitVec 8) : (setRes s c n r).dec.frameCtr = s.dec.frameCtr := rfl
@[simp] theorem setRes_dec_bitsUsed (s : State) (c : Chan) (n : Subband) (r : BitVec 8) : (setRes s c n r).dec.bitsUsed = s.dec.bitsUsed := rfl
@[simp] theorem setRes_dec_maxUsed (s : State) (c : Chan) (n : Subband) (r : BitVec 8) : (setRes s c n r).dec.maxUsed = s.dec.maxUsed := rfl
@[simp] theorem setRes_dec_maxUsedReg (s : State) (c : Chan) (n : Subband) (r : BitVec 8) : (setRes s c n r).dec.maxUsedReg = s.dec.maxUsedReg := rfl
@[simp] theorem setRes_dec_res (s : State) (c : Chan) (n : Subband) (r : BitVec 8) : (setRes s c n r).dec.res = bankSet s.dec.res c n r := rfl
@[simp] theorem setRes_dec_ms (s : State) (c : Chan) (n : Subband) (r : BitVec 8) : (setRes s c n r).dec.ms = s.dec.ms := rfl
@[simp] theorem setRes_dec_scf (s : State) (c : Chan) (n : Subband) (r : BitVec 8) : (setRes s c n r).dec.scf = s.dec.scf := rfl
@[simp] theorem setRes_dec_lastScf (s : State) (c : Chan) (n : Subband) (r : BitVec 8) : (setRes s c n r).dec.lastScf = s.dec.lastScf := rfl
@[simp] theorem setRes_dec_y (s : State) (c : Chan) (n : Subband) (r : BitVec 8) : (setRes s c n r).dec.y = s.dec.y := rfl
@[simp] theorem setRes_dec_hist (s : State) (c : Chan) (n : Subband) (r : BitVec 8) : (setRes s c n r).dec.hist = s.dec.hist := rfl
@[simp] theorem setRes_dec_prng (s : State) (c : Chan) (n : Subband) (r : BitVec 8) : (setRes s c n r).dec.prng = s.dec.prng := rfl
@[simp] theorem setRes_dec_dith (s : State) (c : Chan) (n : Subband) (r : BitVec 8) : (setRes s c n r).dec.dith = s.dec.dith := rfl
@[simp] theorem setRes_frame (s : State) (c : Chan) (n : Subband) (r : BitVec 8) : (setRes s c n r).frame = s.frame := rfl
@[simp] theorem setRes_tdir (s : State) (c : Chan) (n : Subband) (r : BitVec 8) : (setRes s c n r).tdir = s.tdir := rfl
@[simp] theorem setRes_tcls (s : State) (c : Chan) (n : Subband) (r : BitVec 8) : (setRes s c n r).tcls = s.tcls := rfl
@[simp] theorem setRes_lit (s : State) (c : Chan) (n : Subband) (r : BitVec 8) : (setRes s c n r).lit = s.lit := rfl
@[simp] theorem setRes_tab (s : State) (c : Chan) (n : Subband) (r : BitVec 8) : (setRes s c n r).tab = s.tab := rfl
@[simp] theorem setRes_out (s : State) (c : Chan) (n : Subband) (r : BitVec 8) : (setRes s c n r).out = s.out := rfl
@[simp] theorem setRes_stream (s : State) (c : Chan) (n : Subband) (r : BitVec 8) : (setRes s c n r).stream = s.stream := rfl
@[simp] theorem setRes_streamFault (s : State) (c : Chan) (n : Subband) (r : BitVec 8) : (setRes s c n r).streamFault = s.streamFault := rfl
@[simp] theorem setRes_streamDirty (s : State) (c : Chan) (n : Subband) (r : BitVec 8) : (setRes s c n r).streamDirty = s.streamDirty := rfl
@[simp] theorem setRes_run (s : State) (c : Chan) (n : Subband) (r : BitVec 8) : (setRes s c n r).run = s.run := rfl
@[simp] theorem setRes_host (s : State) (c : Chan) (n : Subband) (r : BitVec 8) : (setRes s c n r).host = s.host := rfl
@[simp] theorem setRes_hostData (s : State) (c : Chan) (n : Subband) (r : BitVec 8) : (setRes s c n r).hostData = s.hostData := rfl
@[simp] theorem setRes_freeCtr (s : State) (c : Chan) (n : Subband) (r : BitVec 8) : (setRes s c n r).freeCtr = s.freeCtr := rfl

/-! `setMs`. -/

@[simp] theorem setMs_status (s : State) (n : Subband) (m : Bool) : (setMs s n m).status = s.status := rfl
@[simp] theorem setMs_regs (s : State) (n : Subband) (m : Bool) : (setMs s n m).regs = s.regs := rfl
@[simp] theorem setMs_phase (s : State) (n : Subband) (m : Bool) : (setMs s n m).phase = s.phase := rfl
@[simp] theorem setMs_latched (s : State) (n : Subband) (m : Bool) : (setMs s n m).latched = s.latched := rfl
@[simp] theorem setMs_dec_bp (s : State) (n : Subband) (m : Bool) : (setMs s n m).dec.bp = s.dec.bp := rfl
@[simp] theorem setMs_dec_frameCtr (s : State) (n : Subband) (m : Bool) : (setMs s n m).dec.frameCtr = s.dec.frameCtr := rfl
@[simp] theorem setMs_dec_bitsUsed (s : State) (n : Subband) (m : Bool) : (setMs s n m).dec.bitsUsed = s.dec.bitsUsed := rfl
@[simp] theorem setMs_dec_maxUsed (s : State) (n : Subband) (m : Bool) : (setMs s n m).dec.maxUsed = s.dec.maxUsed := rfl
@[simp] theorem setMs_dec_maxUsedReg (s : State) (n : Subband) (m : Bool) : (setMs s n m).dec.maxUsedReg = s.dec.maxUsedReg := rfl
@[simp] theorem setMs_dec_res (s : State) (n : Subband) (m : Bool) : (setMs s n m).dec.res = s.dec.res := rfl
@[simp] theorem setMs_dec_ms (s : State) (n : Subband) (m : Bool) : (setMs s n m).dec.ms = s.dec.ms.set n m := rfl
@[simp] theorem setMs_dec_scf (s : State) (n : Subband) (m : Bool) : (setMs s n m).dec.scf = s.dec.scf := rfl
@[simp] theorem setMs_dec_lastScf (s : State) (n : Subband) (m : Bool) : (setMs s n m).dec.lastScf = s.dec.lastScf := rfl
@[simp] theorem setMs_dec_y (s : State) (n : Subband) (m : Bool) : (setMs s n m).dec.y = s.dec.y := rfl
@[simp] theorem setMs_dec_hist (s : State) (n : Subband) (m : Bool) : (setMs s n m).dec.hist = s.dec.hist := rfl
@[simp] theorem setMs_dec_prng (s : State) (n : Subband) (m : Bool) : (setMs s n m).dec.prng = s.dec.prng := rfl
@[simp] theorem setMs_dec_dith (s : State) (n : Subband) (m : Bool) : (setMs s n m).dec.dith = s.dec.dith := rfl
@[simp] theorem setMs_frame (s : State) (n : Subband) (m : Bool) : (setMs s n m).frame = s.frame := rfl
@[simp] theorem setMs_tdir (s : State) (n : Subband) (m : Bool) : (setMs s n m).tdir = s.tdir := rfl
@[simp] theorem setMs_tcls (s : State) (n : Subband) (m : Bool) : (setMs s n m).tcls = s.tcls := rfl
@[simp] theorem setMs_lit (s : State) (n : Subband) (m : Bool) : (setMs s n m).lit = s.lit := rfl
@[simp] theorem setMs_tab (s : State) (n : Subband) (m : Bool) : (setMs s n m).tab = s.tab := rfl
@[simp] theorem setMs_out (s : State) (n : Subband) (m : Bool) : (setMs s n m).out = s.out := rfl
@[simp] theorem setMs_stream (s : State) (n : Subband) (m : Bool) : (setMs s n m).stream = s.stream := rfl
@[simp] theorem setMs_streamFault (s : State) (n : Subband) (m : Bool) : (setMs s n m).streamFault = s.streamFault := rfl
@[simp] theorem setMs_streamDirty (s : State) (n : Subband) (m : Bool) : (setMs s n m).streamDirty = s.streamDirty := rfl
@[simp] theorem setMs_run (s : State) (n : Subband) (m : Bool) : (setMs s n m).run = s.run := rfl
@[simp] theorem setMs_host (s : State) (n : Subband) (m : Bool) : (setMs s n m).host = s.host := rfl
@[simp] theorem setMs_hostData (s : State) (n : Subband) (m : Bool) : (setMs s n m).hostData = s.hostData := rfl
@[simp] theorem setMs_freeCtr (s : State) (n : Subband) (m : Bool) : (setMs s n m).freeCtr = s.freeCtr := rfl

/-! `setScfi`. -/

@[simp] theorem setScfi_status (s : State) (c : Chan) (n : Subband) (v : BitVec 2) : (setScfi s c n v).status = s.status := rfl
@[simp] theorem setScfi_regs (s : State) (c : Chan) (n : Subband) (v : BitVec 2) : (setScfi s c n v).regs = s.regs := rfl
@[simp] theorem setScfi_phase (s : State) (c : Chan) (n : Subband) (v : BitVec 2) : (setScfi s c n v).phase = s.phase := rfl
@[simp] theorem setScfi_latched (s : State) (c : Chan) (n : Subband) (v : BitVec 2) : (setScfi s c n v).latched = s.latched := rfl
@[simp] theorem setScfi_dec (s : State) (c : Chan) (n : Subband) (v : BitVec 2) : (setScfi s c n v).dec = s.dec := rfl
@[simp] theorem setScfi_frame_fwdJump (s : State) (c : Chan) (n : Subband) (v : BitVec 2) : (setScfi s c n v).frame.fwdJump = s.frame.fwdJump := rfl
@[simp] theorem setScfi_frame_frameStart (s : State) (c : Chan) (n : Subband) (v : BitVec 2) : (setScfi s c n v).frame.frameStart = s.frame.frameStart := rfl
@[simp] theorem setScfi_frame_scfi (s : State) (c : Chan) (n : Subband) (v : BitVec 2) : (setScfi s c n v).frame.scfi = bankSet s.frame.scfi c n v := rfl
@[simp] theorem setScfi_frame_dflag (s : State) (c : Chan) (n : Subband) (v : BitVec 2) : (setScfi s c n v).frame.dflag = s.frame.dflag := rfl
@[simp] theorem setScfi_frame_q (s : State) (c : Chan) (n : Subband) (v : BitVec 2) : (setScfi s c n v).frame.q = s.frame.q := rfl
@[simp] theorem setScfi_tdir (s : State) (c : Chan) (n : Subband) (v : BitVec 2) : (setScfi s c n v).tdir = s.tdir := rfl
@[simp] theorem setScfi_tcls (s : State) (c : Chan) (n : Subband) (v : BitVec 2) : (setScfi s c n v).tcls = s.tcls := rfl
@[simp] theorem setScfi_lit (s : State) (c : Chan) (n : Subband) (v : BitVec 2) : (setScfi s c n v).lit = s.lit := rfl
@[simp] theorem setScfi_tab (s : State) (c : Chan) (n : Subband) (v : BitVec 2) : (setScfi s c n v).tab = s.tab := rfl
@[simp] theorem setScfi_out (s : State) (c : Chan) (n : Subband) (v : BitVec 2) : (setScfi s c n v).out = s.out := rfl
@[simp] theorem setScfi_stream (s : State) (c : Chan) (n : Subband) (v : BitVec 2) : (setScfi s c n v).stream = s.stream := rfl
@[simp] theorem setScfi_streamFault (s : State) (c : Chan) (n : Subband) (v : BitVec 2) : (setScfi s c n v).streamFault = s.streamFault := rfl
@[simp] theorem setScfi_streamDirty (s : State) (c : Chan) (n : Subband) (v : BitVec 2) : (setScfi s c n v).streamDirty = s.streamDirty := rfl
@[simp] theorem setScfi_run (s : State) (c : Chan) (n : Subband) (v : BitVec 2) : (setScfi s c n v).run = s.run := rfl
@[simp] theorem setScfi_host (s : State) (c : Chan) (n : Subband) (v : BitVec 2) : (setScfi s c n v).host = s.host := rfl
@[simp] theorem setScfi_hostData (s : State) (c : Chan) (n : Subband) (v : BitVec 2) : (setScfi s c n v).hostData = s.hostData := rfl
@[simp] theorem setScfi_freeCtr (s : State) (c : Chan) (n : Subband) (v : BitVec 2) : (setScfi s c n v).freeCtr = s.freeCtr := rfl

/-! `setDflag`. -/

@[simp] theorem setDflag_status (s : State) (c : Chan) (n : Subband) (b : Bool) : (setDflag s c n b).status = s.status := rfl
@[simp] theorem setDflag_regs (s : State) (c : Chan) (n : Subband) (b : Bool) : (setDflag s c n b).regs = s.regs := rfl
@[simp] theorem setDflag_phase (s : State) (c : Chan) (n : Subband) (b : Bool) : (setDflag s c n b).phase = s.phase := rfl
@[simp] theorem setDflag_latched (s : State) (c : Chan) (n : Subband) (b : Bool) : (setDflag s c n b).latched = s.latched := rfl
@[simp] theorem setDflag_dec (s : State) (c : Chan) (n : Subband) (b : Bool) : (setDflag s c n b).dec = s.dec := rfl
@[simp] theorem setDflag_frame_fwdJump (s : State) (c : Chan) (n : Subband) (b : Bool) : (setDflag s c n b).frame.fwdJump = s.frame.fwdJump := rfl
@[simp] theorem setDflag_frame_frameStart (s : State) (c : Chan) (n : Subband) (b : Bool) : (setDflag s c n b).frame.frameStart = s.frame.frameStart := rfl
@[simp] theorem setDflag_frame_scfi (s : State) (c : Chan) (n : Subband) (b : Bool) : (setDflag s c n b).frame.scfi = s.frame.scfi := rfl
@[simp] theorem setDflag_frame_dflag (s : State) (c : Chan) (n : Subband) (b : Bool) : (setDflag s c n b).frame.dflag = bankSet s.frame.dflag c n b := rfl
@[simp] theorem setDflag_frame_q (s : State) (c : Chan) (n : Subband) (b : Bool) : (setDflag s c n b).frame.q = s.frame.q := rfl
@[simp] theorem setDflag_tdir (s : State) (c : Chan) (n : Subband) (b : Bool) : (setDflag s c n b).tdir = s.tdir := rfl
@[simp] theorem setDflag_tcls (s : State) (c : Chan) (n : Subband) (b : Bool) : (setDflag s c n b).tcls = s.tcls := rfl
@[simp] theorem setDflag_lit (s : State) (c : Chan) (n : Subband) (b : Bool) : (setDflag s c n b).lit = s.lit := rfl
@[simp] theorem setDflag_tab (s : State) (c : Chan) (n : Subband) (b : Bool) : (setDflag s c n b).tab = s.tab := rfl
@[simp] theorem setDflag_out (s : State) (c : Chan) (n : Subband) (b : Bool) : (setDflag s c n b).out = s.out := rfl
@[simp] theorem setDflag_stream (s : State) (c : Chan) (n : Subband) (b : Bool) : (setDflag s c n b).stream = s.stream := rfl
@[simp] theorem setDflag_streamFault (s : State) (c : Chan) (n : Subband) (b : Bool) : (setDflag s c n b).streamFault = s.streamFault := rfl
@[simp] theorem setDflag_streamDirty (s : State) (c : Chan) (n : Subband) (b : Bool) : (setDflag s c n b).streamDirty = s.streamDirty := rfl
@[simp] theorem setDflag_run (s : State) (c : Chan) (n : Subband) (b : Bool) : (setDflag s c n b).run = s.run := rfl
@[simp] theorem setDflag_host (s : State) (c : Chan) (n : Subband) (b : Bool) : (setDflag s c n b).host = s.host := rfl
@[simp] theorem setDflag_hostData (s : State) (c : Chan) (n : Subband) (b : Bool) : (setDflag s c n b).hostData = s.hostData := rfl
@[simp] theorem setDflag_freeCtr (s : State) (c : Chan) (n : Subband) (b : Bool) : (setDflag s c n b).freeCtr = s.freeCtr := rfl

/-! `setScf`. -/

@[simp] theorem setScf_status (s : State) (c : Chan) (n : Subband) (v : Vector (BitVec 8) 3) : (setScf s c n v).status = s.status := rfl
@[simp] theorem setScf_regs (s : State) (c : Chan) (n : Subband) (v : Vector (BitVec 8) 3) : (setScf s c n v).regs = s.regs := rfl
@[simp] theorem setScf_phase (s : State) (c : Chan) (n : Subband) (v : Vector (BitVec 8) 3) : (setScf s c n v).phase = s.phase := rfl
@[simp] theorem setScf_latched (s : State) (c : Chan) (n : Subband) (v : Vector (BitVec 8) 3) : (setScf s c n v).latched = s.latched := rfl
@[simp] theorem setScf_dec_bp (s : State) (c : Chan) (n : Subband) (v : Vector (BitVec 8) 3) : (setScf s c n v).dec.bp = s.dec.bp := rfl
@[simp] theorem setScf_dec_frameCtr (s : State) (c : Chan) (n : Subband) (v : Vector (BitVec 8) 3) : (setScf s c n v).dec.frameCtr = s.dec.frameCtr := rfl
@[simp] theorem setScf_dec_bitsUsed (s : State) (c : Chan) (n : Subband) (v : Vector (BitVec 8) 3) : (setScf s c n v).dec.bitsUsed = s.dec.bitsUsed := rfl
@[simp] theorem setScf_dec_maxUsed (s : State) (c : Chan) (n : Subband) (v : Vector (BitVec 8) 3) : (setScf s c n v).dec.maxUsed = s.dec.maxUsed := rfl
@[simp] theorem setScf_dec_maxUsedReg (s : State) (c : Chan) (n : Subband) (v : Vector (BitVec 8) 3) : (setScf s c n v).dec.maxUsedReg = s.dec.maxUsedReg := rfl
@[simp] theorem setScf_dec_res (s : State) (c : Chan) (n : Subband) (v : Vector (BitVec 8) 3) : (setScf s c n v).dec.res = s.dec.res := rfl
@[simp] theorem setScf_dec_ms (s : State) (c : Chan) (n : Subband) (v : Vector (BitVec 8) 3) : (setScf s c n v).dec.ms = s.dec.ms := rfl
@[simp] theorem setScf_dec_scf (s : State) (c : Chan) (n : Subband) (v : Vector (BitVec 8) 3) : (setScf s c n v).dec.scf = bankSet s.dec.scf c n v := rfl
@[simp] theorem setScf_dec_lastScf (s : State) (c : Chan) (n : Subband) (v : Vector (BitVec 8) 3) : (setScf s c n v).dec.lastScf = s.dec.lastScf := rfl
@[simp] theorem setScf_dec_y (s : State) (c : Chan) (n : Subband) (v : Vector (BitVec 8) 3) : (setScf s c n v).dec.y = s.dec.y := rfl
@[simp] theorem setScf_dec_hist (s : State) (c : Chan) (n : Subband) (v : Vector (BitVec 8) 3) : (setScf s c n v).dec.hist = s.dec.hist := rfl
@[simp] theorem setScf_dec_prng (s : State) (c : Chan) (n : Subband) (v : Vector (BitVec 8) 3) : (setScf s c n v).dec.prng = s.dec.prng := rfl
@[simp] theorem setScf_dec_dith (s : State) (c : Chan) (n : Subband) (v : Vector (BitVec 8) 3) : (setScf s c n v).dec.dith = s.dec.dith := rfl
@[simp] theorem setScf_frame (s : State) (c : Chan) (n : Subband) (v : Vector (BitVec 8) 3) : (setScf s c n v).frame = s.frame := rfl
@[simp] theorem setScf_tdir (s : State) (c : Chan) (n : Subband) (v : Vector (BitVec 8) 3) : (setScf s c n v).tdir = s.tdir := rfl
@[simp] theorem setScf_tcls (s : State) (c : Chan) (n : Subband) (v : Vector (BitVec 8) 3) : (setScf s c n v).tcls = s.tcls := rfl
@[simp] theorem setScf_lit (s : State) (c : Chan) (n : Subband) (v : Vector (BitVec 8) 3) : (setScf s c n v).lit = s.lit := rfl
@[simp] theorem setScf_tab (s : State) (c : Chan) (n : Subband) (v : Vector (BitVec 8) 3) : (setScf s c n v).tab = s.tab := rfl
@[simp] theorem setScf_out (s : State) (c : Chan) (n : Subband) (v : Vector (BitVec 8) 3) : (setScf s c n v).out = s.out := rfl
@[simp] theorem setScf_stream (s : State) (c : Chan) (n : Subband) (v : Vector (BitVec 8) 3) : (setScf s c n v).stream = s.stream := rfl
@[simp] theorem setScf_streamFault (s : State) (c : Chan) (n : Subband) (v : Vector (BitVec 8) 3) : (setScf s c n v).streamFault = s.streamFault := rfl
@[simp] theorem setScf_streamDirty (s : State) (c : Chan) (n : Subband) (v : Vector (BitVec 8) 3) : (setScf s c n v).streamDirty = s.streamDirty := rfl
@[simp] theorem setScf_run (s : State) (c : Chan) (n : Subband) (v : Vector (BitVec 8) 3) : (setScf s c n v).run = s.run := rfl
@[simp] theorem setScf_host (s : State) (c : Chan) (n : Subband) (v : Vector (BitVec 8) 3) : (setScf s c n v).host = s.host := rfl
@[simp] theorem setScf_hostData (s : State) (c : Chan) (n : Subband) (v : Vector (BitVec 8) 3) : (setScf s c n v).hostData = s.hostData := rfl
@[simp] theorem setScf_freeCtr (s : State) (c : Chan) (n : Subband) (v : Vector (BitVec 8) 3) : (setScf s c n v).freeCtr = s.freeCtr := rfl

/-! `setLastScf`. -/

@[simp] theorem setLastScf_status (s : State) (c : Chan) (n : Subband) (v : BitVec 8) : (setLastScf s c n v).status = s.status := rfl
@[simp] theorem setLastScf_regs (s : State) (c : Chan) (n : Subband) (v : BitVec 8) : (setLastScf s c n v).regs = s.regs := rfl
@[simp] theorem setLastScf_phase (s : State) (c : Chan) (n : Subband) (v : BitVec 8) : (setLastScf s c n v).phase = s.phase := rfl
@[simp] theorem setLastScf_latched (s : State) (c : Chan) (n : Subband) (v : BitVec 8) : (setLastScf s c n v).latched = s.latched := rfl
@[simp] theorem setLastScf_dec_bp (s : State) (c : Chan) (n : Subband) (v : BitVec 8) : (setLastScf s c n v).dec.bp = s.dec.bp := rfl
@[simp] theorem setLastScf_dec_frameCtr (s : State) (c : Chan) (n : Subband) (v : BitVec 8) : (setLastScf s c n v).dec.frameCtr = s.dec.frameCtr := rfl
@[simp] theorem setLastScf_dec_bitsUsed (s : State) (c : Chan) (n : Subband) (v : BitVec 8) : (setLastScf s c n v).dec.bitsUsed = s.dec.bitsUsed := rfl
@[simp] theorem setLastScf_dec_maxUsed (s : State) (c : Chan) (n : Subband) (v : BitVec 8) : (setLastScf s c n v).dec.maxUsed = s.dec.maxUsed := rfl
@[simp] theorem setLastScf_dec_maxUsedReg (s : State) (c : Chan) (n : Subband) (v : BitVec 8) : (setLastScf s c n v).dec.maxUsedReg = s.dec.maxUsedReg := rfl
@[simp] theorem setLastScf_dec_res (s : State) (c : Chan) (n : Subband) (v : BitVec 8) : (setLastScf s c n v).dec.res = s.dec.res := rfl
@[simp] theorem setLastScf_dec_ms (s : State) (c : Chan) (n : Subband) (v : BitVec 8) : (setLastScf s c n v).dec.ms = s.dec.ms := rfl
@[simp] theorem setLastScf_dec_scf (s : State) (c : Chan) (n : Subband) (v : BitVec 8) : (setLastScf s c n v).dec.scf = s.dec.scf := rfl
@[simp] theorem setLastScf_dec_lastScf (s : State) (c : Chan) (n : Subband) (v : BitVec 8) : (setLastScf s c n v).dec.lastScf = bankSet s.dec.lastScf c n v := rfl
@[simp] theorem setLastScf_dec_y (s : State) (c : Chan) (n : Subband) (v : BitVec 8) : (setLastScf s c n v).dec.y = s.dec.y := rfl
@[simp] theorem setLastScf_dec_hist (s : State) (c : Chan) (n : Subband) (v : BitVec 8) : (setLastScf s c n v).dec.hist = s.dec.hist := rfl
@[simp] theorem setLastScf_dec_prng (s : State) (c : Chan) (n : Subband) (v : BitVec 8) : (setLastScf s c n v).dec.prng = s.dec.prng := rfl
@[simp] theorem setLastScf_dec_dith (s : State) (c : Chan) (n : Subband) (v : BitVec 8) : (setLastScf s c n v).dec.dith = s.dec.dith := rfl
@[simp] theorem setLastScf_frame (s : State) (c : Chan) (n : Subband) (v : BitVec 8) : (setLastScf s c n v).frame = s.frame := rfl
@[simp] theorem setLastScf_tdir (s : State) (c : Chan) (n : Subband) (v : BitVec 8) : (setLastScf s c n v).tdir = s.tdir := rfl
@[simp] theorem setLastScf_tcls (s : State) (c : Chan) (n : Subband) (v : BitVec 8) : (setLastScf s c n v).tcls = s.tcls := rfl
@[simp] theorem setLastScf_lit (s : State) (c : Chan) (n : Subband) (v : BitVec 8) : (setLastScf s c n v).lit = s.lit := rfl
@[simp] theorem setLastScf_tab (s : State) (c : Chan) (n : Subband) (v : BitVec 8) : (setLastScf s c n v).tab = s.tab := rfl
@[simp] theorem setLastScf_out (s : State) (c : Chan) (n : Subband) (v : BitVec 8) : (setLastScf s c n v).out = s.out := rfl
@[simp] theorem setLastScf_stream (s : State) (c : Chan) (n : Subband) (v : BitVec 8) : (setLastScf s c n v).stream = s.stream := rfl
@[simp] theorem setLastScf_streamFault (s : State) (c : Chan) (n : Subband) (v : BitVec 8) : (setLastScf s c n v).streamFault = s.streamFault := rfl
@[simp] theorem setLastScf_streamDirty (s : State) (c : Chan) (n : Subband) (v : BitVec 8) : (setLastScf s c n v).streamDirty = s.streamDirty := rfl
@[simp] theorem setLastScf_run (s : State) (c : Chan) (n : Subband) (v : BitVec 8) : (setLastScf s c n v).run = s.run := rfl
@[simp] theorem setLastScf_host (s : State) (c : Chan) (n : Subband) (v : BitVec 8) : (setLastScf s c n v).host = s.host := rfl
@[simp] theorem setLastScf_hostData (s : State) (c : Chan) (n : Subband) (v : BitVec 8) : (setLastScf s c n v).hostData = s.hostData := rfl
@[simp] theorem setLastScf_freeCtr (s : State) (c : Chan) (n : Subband) (v : BitVec 8) : (setLastScf s c n v).freeCtr = s.freeCtr := rfl

/-! `setQ`. -/

@[simp] theorem setQ_status (s : State) (c : Chan) (n : Subband) (k : Slot) (v : BitVec 32) : (setQ s c n k v).status = s.status := rfl
@[simp] theorem setQ_regs (s : State) (c : Chan) (n : Subband) (k : Slot) (v : BitVec 32) : (setQ s c n k v).regs = s.regs := rfl
@[simp] theorem setQ_phase (s : State) (c : Chan) (n : Subband) (k : Slot) (v : BitVec 32) : (setQ s c n k v).phase = s.phase := rfl
@[simp] theorem setQ_latched (s : State) (c : Chan) (n : Subband) (k : Slot) (v : BitVec 32) : (setQ s c n k v).latched = s.latched := rfl
@[simp] theorem setQ_dec (s : State) (c : Chan) (n : Subband) (k : Slot) (v : BitVec 32) : (setQ s c n k v).dec = s.dec := rfl
@[simp] theorem setQ_frame_fwdJump (s : State) (c : Chan) (n : Subband) (k : Slot) (v : BitVec 32) : (setQ s c n k v).frame.fwdJump = s.frame.fwdJump := rfl
@[simp] theorem setQ_frame_frameStart (s : State) (c : Chan) (n : Subband) (k : Slot) (v : BitVec 32) : (setQ s c n k v).frame.frameStart = s.frame.frameStart := rfl
@[simp] theorem setQ_frame_scfi (s : State) (c : Chan) (n : Subband) (k : Slot) (v : BitVec 32) : (setQ s c n k v).frame.scfi = s.frame.scfi := rfl
@[simp] theorem setQ_frame_dflag (s : State) (c : Chan) (n : Subband) (k : Slot) (v : BitVec 32) : (setQ s c n k v).frame.dflag = s.frame.dflag := rfl
@[simp] theorem setQ_frame_q (s : State) (c : Chan) (n : Subband) (k : Slot) (v : BitVec 32) : (setQ s c n k v).frame.q = bankSet s.frame.q c n ((bankGet s.frame.q c n).set k v) := rfl
@[simp] theorem setQ_tdir (s : State) (c : Chan) (n : Subband) (k : Slot) (v : BitVec 32) : (setQ s c n k v).tdir = s.tdir := rfl
@[simp] theorem setQ_tcls (s : State) (c : Chan) (n : Subband) (k : Slot) (v : BitVec 32) : (setQ s c n k v).tcls = s.tcls := rfl
@[simp] theorem setQ_lit (s : State) (c : Chan) (n : Subband) (k : Slot) (v : BitVec 32) : (setQ s c n k v).lit = s.lit := rfl
@[simp] theorem setQ_tab (s : State) (c : Chan) (n : Subband) (k : Slot) (v : BitVec 32) : (setQ s c n k v).tab = s.tab := rfl
@[simp] theorem setQ_out (s : State) (c : Chan) (n : Subband) (k : Slot) (v : BitVec 32) : (setQ s c n k v).out = s.out := rfl
@[simp] theorem setQ_stream (s : State) (c : Chan) (n : Subband) (k : Slot) (v : BitVec 32) : (setQ s c n k v).stream = s.stream := rfl
@[simp] theorem setQ_streamFault (s : State) (c : Chan) (n : Subband) (k : Slot) (v : BitVec 32) : (setQ s c n k v).streamFault = s.streamFault := rfl
@[simp] theorem setQ_streamDirty (s : State) (c : Chan) (n : Subband) (k : Slot) (v : BitVec 32) : (setQ s c n k v).streamDirty = s.streamDirty := rfl
@[simp] theorem setQ_run (s : State) (c : Chan) (n : Subband) (k : Slot) (v : BitVec 32) : (setQ s c n k v).run = s.run := rfl
@[simp] theorem setQ_host (s : State) (c : Chan) (n : Subband) (k : Slot) (v : BitVec 32) : (setQ s c n k v).host = s.host := rfl
@[simp] theorem setQ_hostData (s : State) (c : Chan) (n : Subband) (k : Slot) (v : BitVec 32) : (setQ s c n k v).hostData = s.hostData := rfl
@[simp] theorem setQ_freeCtr (s : State) (c : Chan) (n : Subband) (k : Slot) (v : BitVec 32) : (setQ s c n k v).freeCtr = s.freeCtr := rfl

/-! `setShape`. -/

@[simp] theorem setShape_status (s : State) (v : Bool) : (setShape s v).status = s.status := rfl
@[simp] theorem setShape_regs (s : State) (v : Bool) : (setShape s v).regs = s.regs := rfl
@[simp] theorem setShape_phase (s : State) (v : Bool) : (setShape s v).phase = s.phase := rfl
@[simp] theorem setShape_latched (s : State) (v : Bool) : (setShape s v).latched = s.latched := rfl
@[simp] theorem setShape_dec (s : State) (v : Bool) : (setShape s v).dec = s.dec := rfl
@[simp] theorem setShape_frame (s : State) (v : Bool) : (setShape s v).frame = s.frame := rfl
@[simp] theorem setShape_tdir (s : State) (v : Bool) : (setShape s v).tdir = s.tdir := rfl
@[simp] theorem setShape_tcls (s : State) (v : Bool) : (setShape s v).tcls = s.tcls := rfl
@[simp] theorem setShape_lit (s : State) (v : Bool) : (setShape s v).lit = s.lit := rfl
@[simp] theorem setShape_tab (s : State) (v : Bool) : (setShape s v).tab = s.tab := rfl
@[simp] theorem setShape_out (s : State) (v : Bool) : (setShape s v).out = s.out := rfl
@[simp] theorem setShape_stream (s : State) (v : Bool) : (setShape s v).stream = s.stream := rfl
@[simp] theorem setShape_streamFault (s : State) (v : Bool) : (setShape s v).streamFault = s.streamFault := rfl
@[simp] theorem setShape_streamDirty (s : State) (v : Bool) : (setShape s v).streamDirty = s.streamDirty := rfl
@[simp] theorem setShape_run_point (s : State) (v : Bool) : (setShape s v).run.point = s.run.point := rfl
@[simp] theorem setShape_run_replay (s : State) (v : Bool) : (setShape s v).run.replay = s.run.replay := rfl
@[simp] theorem setShape_run_extra (s : State) (v : Bool) : (setShape s v).run.extra = s.run.extra := rfl
@[simp] theorem setShape_run_shape (s : State) (v : Bool) : (setShape s v).run.shape = v := rfl
@[simp] theorem setShape_run_lo (s : State) (v : Bool) : (setShape s v).run.lo = s.run.lo := rfl
@[simp] theorem setShape_run_hi (s : State) (v : Bool) : (setShape s v).run.hi = s.run.hi := rfl
@[simp] theorem setShape_run_save (s : State) (v : Bool) : (setShape s v).run.save = s.run.save := rfl
@[simp] theorem setShape_run_raw (s : State) (v : Bool) : (setShape s v).run.raw = s.run.raw := rfl
@[simp] theorem setShape_host (s : State) (v : Bool) : (setShape s v).host = s.host := rfl
@[simp] theorem setShape_hostData (s : State) (v : Bool) : (setShape s v).hostData = s.hostData := rfl
@[simp] theorem setShape_freeCtr (s : State) (v : Bool) : (setShape s v).freeCtr = s.freeCtr := rfl

/-! `legal`. -/

@[simp] theorem legal_status_busy (s : State) : (legal s).status.busy = s.status.busy := rfl
@[simp] theorem legal_status_tablesReady (s : State) : (legal s).status.tablesReady = s.status.tablesReady := rfl
@[simp] theorem legal_status_opened (s : State) : (legal s).status.opened = s.status.opened := rfl
@[simp] theorem legal_status_frameValid (s : State) : (legal s).status.frameValid = s.status.frameValid := rfl
@[simp] theorem legal_status_eos (s : State) : (legal s).status.eos = s.status.eos := rfl
@[simp] theorem legal_status_warm (s : State) : (legal s).status.warm = s.status.warm := rfl
@[simp] theorem legal_status_errIo (s : State) : (legal s).status.errIo = s.status.errIo := rfl
@[simp] theorem legal_status_errVersion (s : State) : (legal s).status.errVersion = s.status.errVersion := rfl
@[simp] theorem legal_status_errTable (s : State) : (legal s).status.errTable = s.status.errTable := rfl
@[simp] theorem legal_status_errCmd (s : State) : (legal s).status.errCmd = false := rfl
@[simp] theorem legal_status_errRes (s : State) : (legal s).status.errRes = s.status.errRes := rfl
@[simp] theorem legal_status_errDesc (s : State) : (legal s).status.errDesc = s.status.errDesc := rfl
@[simp] theorem legal_regs (s : State) : (legal s).regs = s.regs := rfl
@[simp] theorem legal_phase (s : State) : (legal s).phase = s.phase := rfl
@[simp] theorem legal_latched (s : State) : (legal s).latched = s.latched := rfl
@[simp] theorem legal_dec (s : State) : (legal s).dec = s.dec := rfl
@[simp] theorem legal_frame (s : State) : (legal s).frame = s.frame := rfl
@[simp] theorem legal_tdir (s : State) : (legal s).tdir = s.tdir := rfl
@[simp] theorem legal_tcls (s : State) : (legal s).tcls = s.tcls := rfl
@[simp] theorem legal_lit (s : State) : (legal s).lit = s.lit := rfl
@[simp] theorem legal_tab (s : State) : (legal s).tab = s.tab := rfl
@[simp] theorem legal_out (s : State) : (legal s).out = s.out := rfl
@[simp] theorem legal_stream (s : State) : (legal s).stream = s.stream := rfl
@[simp] theorem legal_streamFault (s : State) : (legal s).streamFault = s.streamFault := rfl
@[simp] theorem legal_streamDirty (s : State) : (legal s).streamDirty = s.streamDirty := rfl
@[simp] theorem legal_run (s : State) : (legal s).run = s.run := rfl
@[simp] theorem legal_host (s : State) : (legal s).host = s.host := rfl
@[simp] theorem legal_hostData (s : State) : (legal s).hostData = s.hostData := rfl
@[simp] theorem legal_freeCtr (s : State) : (legal s).freeCtr = s.freeCtr := rfl

/-! `illegal`. -/

@[simp] theorem illegal_status_busy (s : State) (w : Word) : (illegal s w).status.busy = s.status.busy := rfl
@[simp] theorem illegal_status_tablesReady (s : State) (w : Word) : (illegal s w).status.tablesReady = s.status.tablesReady := rfl
@[simp] theorem illegal_status_opened (s : State) (w : Word) : (illegal s w).status.opened = s.status.opened := rfl
@[simp] theorem illegal_status_frameValid (s : State) (w : Word) : (illegal s w).status.frameValid = s.status.frameValid := rfl
@[simp] theorem illegal_status_eos (s : State) (w : Word) : (illegal s w).status.eos = s.status.eos := rfl
@[simp] theorem illegal_status_warm (s : State) (w : Word) : (illegal s w).status.warm = s.status.warm := rfl
@[simp] theorem illegal_status_errIo (s : State) (w : Word) : (illegal s w).status.errIo = s.status.errIo := rfl
@[simp] theorem illegal_status_errVersion (s : State) (w : Word) : (illegal s w).status.errVersion = s.status.errVersion := rfl
@[simp] theorem illegal_status_errTable (s : State) (w : Word) : (illegal s w).status.errTable = s.status.errTable := rfl
@[simp] theorem illegal_status_errCmd (s : State) (w : Word) : (illegal s w).status.errCmd = true := rfl
@[simp] theorem illegal_status_errRes (s : State) (w : Word) : (illegal s w).status.errRes = s.status.errRes := rfl
@[simp] theorem illegal_status_errDesc (s : State) (w : Word) : (illegal s w).status.errDesc = s.status.errDesc := rfl
@[simp] theorem illegal_regs (s : State) (w : Word) : (illegal s w).regs = { s.regs with errInfo := w } := rfl
@[simp] theorem illegal_phase (s : State) (w : Word) : (illegal s w).phase = s.phase := rfl
@[simp] theorem illegal_latched (s : State) (w : Word) : (illegal s w).latched = s.latched := rfl
@[simp] theorem illegal_dec (s : State) (w : Word) : (illegal s w).dec = s.dec := rfl
@[simp] theorem illegal_frame (s : State) (w : Word) : (illegal s w).frame = s.frame := rfl
@[simp] theorem illegal_tdir (s : State) (w : Word) : (illegal s w).tdir = s.tdir := rfl
@[simp] theorem illegal_tcls (s : State) (w : Word) : (illegal s w).tcls = s.tcls := rfl
@[simp] theorem illegal_lit (s : State) (w : Word) : (illegal s w).lit = s.lit := rfl
@[simp] theorem illegal_tab (s : State) (w : Word) : (illegal s w).tab = s.tab := rfl
@[simp] theorem illegal_out (s : State) (w : Word) : (illegal s w).out = s.out := rfl
@[simp] theorem illegal_stream (s : State) (w : Word) : (illegal s w).stream = s.stream := rfl
@[simp] theorem illegal_streamFault (s : State) (w : Word) : (illegal s w).streamFault = s.streamFault := rfl
@[simp] theorem illegal_streamDirty (s : State) (w : Word) : (illegal s w).streamDirty = s.streamDirty := rfl
@[simp] theorem illegal_run (s : State) (w : Word) : (illegal s w).run = s.run := rfl
@[simp] theorem illegal_host (s : State) (w : Word) : (illegal s w).host = s.host := rfl
@[simp] theorem illegal_hostData (s : State) (w : Word) : (illegal s w).hostData = s.hostData := rfl
@[simp] theorem illegal_freeCtr (s : State) (w : Word) : (illegal s w).freeCtr = s.freeCtr := rfl

/-! `enter`. -/

@[simp] theorem enter_status (p : Point) (s : State) : (enter p s).status = s.status := rfl
@[simp] theorem enter_regs (p : Point) (s : State) : (enter p s).regs = s.regs := rfl
@[simp] theorem enter_phase (p : Point) (s : State) : (enter p s).phase = phaseOf p := rfl
@[simp] theorem enter_latched (p : Point) (s : State) : (enter p s).latched = s.latched := rfl
@[simp] theorem enter_dec (p : Point) (s : State) : (enter p s).dec = s.dec := rfl
@[simp] theorem enter_frame (p : Point) (s : State) : (enter p s).frame = s.frame := rfl
@[simp] theorem enter_tdir (p : Point) (s : State) : (enter p s).tdir = s.tdir := rfl
@[simp] theorem enter_tcls (p : Point) (s : State) : (enter p s).tcls = s.tcls := rfl
@[simp] theorem enter_lit (p : Point) (s : State) : (enter p s).lit = s.lit := rfl
@[simp] theorem enter_tab (p : Point) (s : State) : (enter p s).tab = s.tab := rfl
@[simp] theorem enter_out (p : Point) (s : State) : (enter p s).out = s.out := rfl
@[simp] theorem enter_stream (p : Point) (s : State) : (enter p s).stream = s.stream := rfl
@[simp] theorem enter_streamFault (p : Point) (s : State) : (enter p s).streamFault = s.streamFault := rfl
@[simp] theorem enter_streamDirty (p : Point) (s : State) : (enter p s).streamDirty = s.streamDirty := rfl
@[simp] theorem enter_run_point (p : Point) (s : State) : (enter p s).run.point = p := rfl
@[simp] theorem enter_run_replay (p : Point) (s : State) : (enter p s).run.replay = s.run.replay := rfl
@[simp] theorem enter_run_extra (p : Point) (s : State) : (enter p s).run.extra = s.run.extra := rfl
@[simp] theorem enter_run_shape (p : Point) (s : State) : (enter p s).run.shape = s.run.shape := rfl
@[simp] theorem enter_run_lo (p : Point) (s : State) : (enter p s).run.lo = s.run.lo := rfl
@[simp] theorem enter_run_hi (p : Point) (s : State) : (enter p s).run.hi = s.run.hi := rfl
@[simp] theorem enter_run_save (p : Point) (s : State) : (enter p s).run.save = s.run.save := rfl
@[simp] theorem enter_run_raw (p : Point) (s : State) : (enter p s).run.raw = s.run.raw := rfl
@[simp] theorem enter_host (p : Point) (s : State) : (enter p s).host = s.host := rfl
@[simp] theorem enter_hostData (p : Point) (s : State) : (enter p s).hostData = s.hostData := rfl
@[simp] theorem enter_freeCtr (p : Point) (s : State) : (enter p s).freeCtr = s.freeCtr := rfl

end Sys2Proof.Machine
end

