-- ==== Sys2Proof/Laws/Ops.lean ====
section
/-! SUPPORT. One lemma per shared operation that says what it can do. -/

namespace Sys2Proof.Machine

/-! Reading after writing. -/

@[simp] theorem resOf_setRes_self (s : State) (c : Chan) (n : Subband) (r : BitVec 8) :
    resOf (setRes s c n r) c n = r := bankGet_bankSet_self _ _ _ _

theorem resOf_setRes_other (s : State) {c d : Chan} {n m : Subband} (h : (d, m) ≠ (c, n)) (r : BitVec 8) :
    resOf (setRes s c n r) d m = resOf s d m := bankGet_bankSet_other _ h _

@[simp] theorem qOf_setQ_self (s : State) (c : Chan) (n : Subband) (k : Slot) (v : BitVec 32) :
    qOf (setQ s c n k v) c n k = v := by
  simp [qOf, setQ]

theorem qOf_setQ_other (s : State) {c d : Chan} {n m : Subband} {k i : Slot} (h : (d, m) ≠ (c, n) ∨ i ≠ k)
    (v : BitVec 32) : qOf (setQ s c n k v) d m i = qOf s d m i := by
  by_cases hc : (d, m) = (c, n)
  · obtain ⟨rfl, rfl⟩ := Prod.ext_iff.1 hc
    have hk : k.val ≠ i.val := fun e => (h.resolve_left (not_not.2 hc)) (Fin.ext e.symm)
    simp [qOf, setQ, hk]
  · simp [qOf, setQ, bankGet_bankSet_other _ hc]

/-- The bit of the stream at BP + j. -/
theorem upcoming_getElem? (s : State) (n j : Nat) (h : j < n) :
    (upcoming s n)[j]? = some (streamBit s (s.dec.bp.toNat + j)) := by
  simp [upcoming, h]

/-! Raising. -/

/-- A raise ends the command. -/
@[simp] theorem raise_busy (k : RaiseKind) (info : Nat) (s : State) : (raise k info s).status.busy = false := by
  cases k <;> rfl

@[simp] theorem raise_point (k : RaiseKind) (info : Nat) (s : State) : (raise k info s).run.point = .idle := by
  cases k <;> rfl

@[simp] theorem raise_latched (k : RaiseKind) (info : Nat) (s : State) : (raise k info s).latched = s.latched := by
  cases k <;> rfl

@[simp] theorem raise_tablesReady (k : RaiseKind) (info : Nat) (s : State) :
    (raise k info s).status.tablesReady = s.status.tablesReady := by
  cases k <;> rfl

@[simp] theorem raise_lit (k : RaiseKind) (info : Nat) (s : State) : (raise k info s).lit = s.lit := by cases k <;> rfl

@[simp] theorem raise_tab (k : RaiseKind) (info : Nat) (s : State) : (raise k info s).tab = s.tab := by cases k <;> rfl

@[simp] theorem raise_stream (k : RaiseKind) (info : Nat) (s : State) : (raise k info s).stream = s.stream := by
  cases k <;> rfl

@[simp] theorem raise_out (k : RaiseKind) (info : Nat) (s : State) : (raise k info s).out = ramForget s.out := by
  cases k <;> rfl

@[simp] theorem raise_opened (k : RaiseKind) (info : Nat) (s : State) :
    (raise k info s).status.opened = (s.status.opened && !raiseFatal k) := by
  cases k <;> simp [raise, raiseFatal, raiseStatus, closeStream]

/-- Memories other than OUT keep every byte over a raise. -/
theorem raise_byteAt (k : RaiseKind) (info : Nat) (s : State) (sp : Space) (a : Nat) (h : sp ≠ .out) :
    byteAt (raise k info s) sp a = byteAt s sp a := by
  cases sp <;> simp only [byteAt, raise_lit, raise_tab, raise_stream]
  exact absurd rfl h

/-- What a raise leaves DecoderState and the frame as. -/
theorem raise_decoder (k : RaiseKind) (info : Nat) (s : State) :
    (raise k info s).dec = (if raiseFatal k then freeDecoder s.freeCtr else s.dec) ∧
      (raise k info s).frame = (if raiseFatal k then freeFrame s.freeCtr else s.frame) := by
  cases k <;> exact ⟨rfl, rfl⟩

/-! Scalefactors and resolutions. -/

/-- Storing an index writes `SCF` and `LastSCF` only. -/
theorem storeScf_frame (s : State) (c : Chan) (n : Subband) (g : Segment) (v : BitVec 8) :
    ∃ scf lastScf, storeScf s c n g v = { s with dec.scf := scf, dec.lastScf := lastScf } := by
  unfold storeScf
  dsimp only
  split
  · exact ⟨_, _, rfl⟩
  · exact ⟨_, s.dec.lastScf, rfl⟩

/-- A legal resolution is written; another raises. -/
theorem writeRes_spec (c : Chan) (n : Subband) (r : Int) (s : State) :
    (-1 ≤ r ∧ r ≤ 17 ∧ writeRes c n r s = setRes s c n (.ofInt 8 r) ∧ (BitVec.ofInt 8 r).toInt = r) ∨
      ((r < -1 ∨ 17 < r) ∧ writeRes c n r s = raise .resRange (bandNumber c n) s) := by
  unfold writeRes resLegal resMax
  by_cases h : -1 ≤ r ∧ r ≤ 17
  · left
    refine ⟨h.1, h.2, by simp [h.1, h.2], ?_⟩
    rw [BitVec.toInt_ofInt]
    simp only [Int.bmod]
    omega
  · right
    refine ⟨by omega, ?_⟩
    rw [if_neg]
    simpa using h

end Sys2Proof.Machine
end

