-- ==== Sys2Proof/Laws/Huffman.lean ====
section
/-! SUPPORT. BUILD: the checks of a literal table as propositions, and reading an entry of TAB after writing entries. -/

namespace Sys2Proof.Machine

theorem prefixFree_iff (l : List Word) :
    prefixFree l = true ↔ l.Pairwise fun x y => litPrefix x y = false ∧ litPrefix y x = false := by
  induction l with
  | nil => simp [prefixFree]
  | cons x xs ih => simp [prefixFree, ih, List.pairwise_cons, List.all_eq_true]

/-- A legal LIT word (41_huffman.md R152 b). -/
theorem litLegal_iff (w : Word) :
    litLegal w = true ↔ w.toNat < 2 ^ 21 ∧ 1 ≤ litLen w ∧ litLen w ≤ 14 ∧ litCode w < 2 ^ litLen w := by
  have h : (w.extractLsb' 21 11 == 0) = true ↔ w.toNat < 2 ^ 21 := by
    rw [beq_iff_eq]
    constructor
    · intro h
      have h1 := congrArg BitVec.toNat h
      simp only [BitVec.extractLsb'_toNat, Nat.shiftRight_eq_div_pow, BitVec.ofNat_eq_ofNat, BitVec.toNat_ofNat] at h1
      have := w.isLt
      omega
    · intro h
      apply BitVec.eq_of_toNat_eq
      simp only [BitVec.extractLsb'_toNat, Nat.shiftRight_eq_div_pow, BitVec.ofNat_eq_ofNat, BitVec.toNat_ofNat]
      omega
  unfold litLegal
  simp only [Bool.and_eq_true, decide_eq_true_iff, h]
  tauto

/-- Neither codeword starts the other (41_huffman.md R152 c). -/
theorem litPrefix_false_iff (x y : Word) :
    litPrefix x y = false ↔ (litLen x ≤ litLen y → litCode y / 2 ^ (litLen y - litLen x) ≠ litCode x) := by
  unfold litPrefix
  rw [Bool.and_eq_false_imp]
  simp [Nat.shiftRight_eq_div_pow]

/-- The overlap check (41_huffman.md R152 d), for a present table. -/
theorem overlapOk_iff (d e : BitVec 25) (hd : 0 < tdirCount d) :
    overlapOk d e = true ↔ (0 < tdirCount e → (∃ x, tdirBase d ≤ x ∧ x < tdirBase d + tdirCount d ∧ tdirBase e ≤ x ∧
      x < tdirBase e + tdirCount e) → d = e) := by
  unfold overlapOk litDisjoint
  simp only [Bool.or_eq_true, beq_iff_eq, decide_eq_true_iff]
  constructor
  · rintro (((h | h) | h | h) | h) he ⟨x, h1, h2, h3, h4⟩
    · omega
    · omega
    · omega
    · omega
    · exact h
  · intro h
    by_cases he : 0 < tdirCount e
    · by_cases hx : ∃ x, tdirBase d ≤ x ∧ x < tdirBase d + tdirCount d ∧ tdirBase e ≤ x ∧ x < tdirBase e + tdirCount e
      · exact .inr (h he hx)
      · refine .inl (.inr ?_)
        by_contra hc
        exact hx ⟨max (tdirBase d) (tdirBase e), by omega⟩
    · exact .inl (.inl (.inr (by omega)))

/-- The shape check (41_huffman.md R152 e). -/
theorem shapeOk_iff (i : Fin 34) (d : BitVec 25) : shapeOk (layoutAt i) (idAt i) d = true ↔
    (i.val = 0 → tdirCount d ≤ 16) ∧ (i.val = 1 → tdirCount d = 8 ∧ tdirVoff d = 0) ∧ (i.val = 2 → tdirCount d = 13) ∧
    (i.val = 18 → tdirCount d = 4 ∧ tdirVoff d = 0) ∧
    (i.val = 20 ∨ i.val = 27 → tdirCount d = 27 ∧ tdirVoff d = 0) ∧
    (i.val = 21 ∨ i.val = 28 → tdirCount d = 25 ∧ tdirVoff d = 0) := by
  fin_cases i <;> simp [layoutAt, idAt, shapeOk]

/-- The checks of BUILD are the conditions of `TableWellFormed`. -/
theorem tableOk_iff (s : State) (i : Fin 34) (hp : present s i) : tableOk s i = true ↔ TableWellFormed s i := by
  have hleg : (litTable s.lit s.tdir[i]).all litLegal = true ↔ ∀ j < tdirCount s.tdir[i],
      (symbolWord s i j).toNat < 2 ^ 21 ∧ 1 ≤ symbolLen s i j ∧ symbolLen s i j ≤ 14 ∧
        symbolCode s i j < 2 ^ symbolLen s i j := by
    simp only [litTable, List.all_map, List.all_eq_true, List.mem_range, Function.comp, litLegal_iff]
    rfl
  have hpre : prefixFree (litTable s.lit s.tdir[i]) = true ↔ ∀ j < tdirCount s.tdir[i], ∀ k < tdirCount s.tdir[i], j ≠ k →
      symbolLen s i j ≤ symbolLen s i k →
      symbolCode s i k / 2 ^ (symbolLen s i k - symbolLen s i j) ≠ symbolCode s i j := by
    rw [prefixFree_iff, List.pairwise_iff_getElem]
    simp only [litTable, List.length_map, List.length_range, List.getElem_map, List.getElem_range, litPrefix_false_iff]
    constructor
    · intro h j hj k hk hne
      rcases Nat.lt_or_gt_of_ne hne with hlt | hlt
      · exact (h j k hj hk hlt).1
      · exact (h k j hk hj hlt).2
    · intro h j k hj hk hlt
      exact ⟨h j hj k hk (by omega), h k hk j hj (by omega)⟩
  have hov : ((List.finRange 34).all fun j => overlapOk s.tdir[i] s.tdir[j]) = true ↔ ∀ i', present s i' →
      (∃ x, tdirBase s.tdir[i] ≤ x ∧ x < tdirBase s.tdir[i] + tdirCount s.tdir[i] ∧ tdirBase s.tdir[i'] ≤ x ∧
        x < tdirBase s.tdir[i'] + tdirCount s.tdir[i']) → s.tdir[i] = s.tdir[i'] := by
    simp only [List.all_eq_true, List.mem_finRange, true_implies]
    exact forall_congr' fun j => overlapOk_iff s.tdir[i] s.tdir[j] hp
  unfold tableOk
  dsimp only
  rw [Bool.and_eq_true, Bool.and_eq_true, Bool.and_eq_true, Bool.and_eq_true, Bool.and_eq_true, hleg, hpre, hov, shapeOk_iff]
  constructor
  · rintro ⟨⟨⟨⟨⟨a, b⟩, c⟩, d⟩, e⟩, f1, f2, f3, f4, f5, f6⟩
    exact ⟨⟨of_decide_eq_true a, of_decide_eq_true b⟩, c, d, e, f1, f2, f3, f4, f5, f6⟩
  · rintro ⟨⟨a, b⟩, c, d, e, f1, f2, f3, f4, f5, f6⟩
    exact ⟨⟨⟨⟨⟨decide_eq_true a, decide_eq_true b⟩, c⟩, d⟩, e⟩, f1, f2, f3, f4, f5, f6⟩

theorem buildBad_none_iff (s : State) : buildBad s = none ↔ LiteralsWellFormed s := by
  unfold buildBad LiteralsWellFormed
  rw [List.find?_eq_none]
  simp only [List.mem_finRange, true_implies]
  refine forall_congr' fun i => ?_
  rw [Bool.and_eq_true, not_and]
  constructor
  · intro h hp
    have := h (by simpa using Nat.pos_iff_ne_zero.1 hp)
    exact (tableOk_iff s i hp).1 (by simpa using this)
  · intro h hc
    have hp : present s i := Nat.pos_of_ne_zero (by simpa using hc)
    simpa using (tableOk_iff s i hp).2 (h hp)

/-- The first table that fails. -/
theorem buildBad_eq_some (s : State) (i : Fin 34) (hp : present s i) (hw : ¬ TableWellFormed s i)
    (hl : ∀ i' < i, present s i' → TableWellFormed s i') : buildBad s = some i := by
  unfold buildBad
  rw [List.find?_eq_some_iff_getElem]
  refine ⟨?_, i.val, by simp, by simp, fun j hj => ?_⟩
  · rw [Bool.and_eq_true]
    exact ⟨by simpa using Nat.pos_iff_ne_zero.1 hp, by simpa using mt (tableOk_iff s i hp).1 hw⟩
  · have hj' : j < 34 := by omega
    rw [List.getElem_finRange, Bool.not_eq_true', Bool.and_eq_false_imp]
    intro hc
    have hp' : present s ⟨j, hj'⟩ := Nat.pos_of_ne_zero (by simpa using hc)
    simpa using (tableOk_iff s ⟨j, hj'⟩ hp').2 (hl ⟨j, hj'⟩ hj hp')

/-! Entries of TAB. -/

@[simp] theorem length_entryBytes (e : Entry) : (entryBytes e).length = 8 := rfl

theorem length_flatMap_entryBytes (es : List Entry) : (es.flatMap entryBytes).length = 8 * es.length := by
  induction es with
  | nil => rfl
  | cons e es ih => simp only [List.flatMap_cons, List.length_append, ih, length_entryBytes, List.length_cons]; omega

theorem flatMap_entryBytes_getElem? (es : List Entry) (j k : Nat) (hj : j < es.length) (hk : k < 8) :
    (es.flatMap entryBytes)[8 * j + k]? = (entryBytes es[j])[k]? := by
  induction es generalizing j with
  | nil => simp at hj
  | cons e es ih =>
    cases j with
    | zero => rw [List.flatMap_cons, List.getElem?_append_left (by simpa using hk)]; simp
    | succ j =>
      rw [List.flatMap_cons, List.getElem?_append_right (by simp; omega), List.getElem_cons_succ,
        ← ih j (by simpa using hj), length_entryBytes]
      congr 1
      omega

/-- A TAB that holds the bytes of the entries from entry b on: byte k of entry j. -/
theorem tabByte_of_bytes (tab : Ram) (b j k : Nat) (es : List Entry) (hj : j < es.length) (hk : k < 8)
    (h : ∀ k, (hk : k < (es.flatMap entryBytes).length) → ramByte .tab tab (8 * b + k) = (es.flatMap entryBytes)[k]) :
    ramByte .tab tab (8 * (b + j) + k) = (entryBytes es[j])[k]'(by simpa using hk) := by
  have hr : 8 * j + k < (es.flatMap entryBytes).length := by rw [length_flatMap_entryBytes]; omega
  rw [show 8 * (b + j) + k = 8 * b + (8 * j + k) by omega, h _ hr, List.getElem_eq_iff,
    flatMap_entryBytes_getElem? es j k hj hk, List.getElem?_eq_getElem]

/-- A TAB that holds the bytes of the entries from entry b on holds the entries (30_encoding.md R104). -/
theorem tabEntry_of_bytes (tab : Ram) (b j : Nat) (es : List Entry) (hj : j < es.length)
    (h : ∀ k, (hk : k < (es.flatMap entryBytes).length) → ramByte .tab tab (8 * b + k) = (es.flatMap entryBytes)[k]) :
    tabEntry tab (b + j) = es[j] := by
  have key (k : Nat) (hk : k < 8) := tabByte_of_bytes tab b j k es hj hk h
  have k0 := key 0 (by omega)
  rw [Nat.add_zero] at k0
  unfold tabEntry ramWord
  rw [key 3 (by omega), key 2 (by omega), key 1 (by omega), k0, key 4 (by omega), key 7 (by omega), key 6 (by omega)]
  have hv (v : BitVec 16) : (v.extractLsb' 8 8 ++ v.extractLsb' 0 8 : BitVec 16) = v := by
    apply BitVec.eq_of_getLsbD_eq
    intro i hi
    simp only [BitVec.getLsbD_append, BitVec.getLsbD_extractLsb']
    by_cases h : i < 8
    · simp [h]
    · simp [h, show 8 + (i - 8) = i by omega, show i - 8 < 8 by omega]
  exact congrArg₂ (fun a b => (⟨a, es[j].len, b⟩ : Entry)) (append_wordBytes _) (hv _)

/-! Building the tables. -/

@[simp] theorem length_builtEntries (lit : Ram) (d : BitVec 25) : (builtEntries lit d).length = tdirCount d := by
  unfold builtEntries litTable
  rw [List.length_insertionSort]
  simp

/-- The bytes BUILD writes for a table. -/
def builtBytes (lit : Ram) (d : BitVec 25) : List Byte := (builtEntries lit d).flatMap entryBytes

@[simp] theorem length_builtBytes (lit : Ram) (d : BitVec 25) : (builtBytes lit d).length = 8 * tdirCount d := by
  rw [builtBytes, length_flatMap_entryBytes, length_builtEntries]

/-- No two present tables share LIT words unless their directory words are equal (41_huffman.md R152 d). -/
def NoOverlap (s : State) : Prop := ∀ i i' : Fin 34, present s i → present s i' →
  (∃ x, tdirBase s.tdir[i] ≤ x ∧ x < tdirBase s.tdir[i] + tdirCount s.tdir[i] ∧ tdirBase s.tdir[i'] ≤ x ∧
    x < tdirBase s.tdir[i'] + tdirCount s.tdir[i']) → s.tdir[i] = s.tdir[i']

/-- After building the tables of a list: their TCLS, the bytes of the present ones, and nothing outside them. -/
theorem buildFold_spec (s : State) (hov : NoOverlap s) (l : List (Fin 34)) :
    (l.foldl buildOne s).tdir = s.tdir ∧ (l.foldl buildOne s).lit = s.lit ∧
    (∀ i ∈ l, (l.foldl buildOne s).tcls[i] = tclsFor s.lit s.tdir[i]) ∧
    (∀ i ∈ l, present s i → ∀ k, (hk : k < (builtBytes s.lit s.tdir[i]).length) →
      ramByte .tab (l.foldl buildOne s).tab (8 * tdirBase s.tdir[i] + k) = (builtBytes s.lit s.tdir[i])[k]) ∧
    (∀ a, (∀ i, present s i → ¬ (8 * tdirBase s.tdir[i] ≤ a ∧ a < 8 * (tdirBase s.tdir[i] + tdirCount s.tdir[i]))) →
      ramByte .tab (l.foldl buildOne s).tab a = ramByte .tab s.tab a) := by
  induction l using List.reverseRecOn with
  | nil => exact ⟨rfl, rfl, by simp, by simp, fun _ _ => rfl⟩
  | append_singleton l a ih =>
    obtain ⟨h1, h2, h3, h4, h5⟩ := ih
    rw [List.foldl_append]
    simp only [List.foldl_cons, List.foldl_nil]
    generalize l.foldl buildOne s = u at *
    have e1 : (buildOne u a).tcls = u.tcls.set a (tclsFor s.lit s.tdir[a]) := by
      unfold buildOne
      dsimp only
      rw [h1, h2]
    have e2 : (buildOne u a).tab = if tdirCount s.tdir[a] = 0 then u.tab
        else ramWrite u.tab (8 * tdirBase s.tdir[a]) (builtBytes s.lit s.tdir[a]) := by
      unfold buildOne
      dsimp only
      rw [h1, h2]
      rfl
    refine ⟨h1, h2, fun i hi => ?_, fun i hi hp k hk => ?_, fun x hx => ?_⟩
    · show (buildOne u a).tcls[i] = _
      simp only [e1]
      by_cases hia : a.val = i.val
      · obtain rfl := Fin.ext hia
        simp
      · have hil : i ∈ l := (List.mem_append.1 hi).resolve_right fun h => hia (by simp at h; rw [h])
        rw [← h3 i hil]
        exact Vector.getElem_set_ne (by omega) (by omega) hia
    · show ramByte .tab (buildOne u a).tab _ = _
      rw [e2]
      by_cases ha : tdirCount s.tdir[a] = 0
      · have hil : i ∈ l := (List.mem_append.1 hi).resolve_right fun h => by
          simp only [List.mem_singleton] at h
          exact absurd ha (Nat.pos_iff_ne_zero.1 (h ▸ hp))
        rw [if_pos ha, h4 i hil hp k hk]
      · rw [if_neg ha]
        by_cases hd : s.tdir[i] = s.tdir[a]
        · have (d : BitVec 25) (e : s.tdir[i] = d) :
              ramByte .tab (ramWrite u.tab (8 * tdirBase d) (builtBytes s.lit d)) (8 * tdirBase s.tdir[i] + k) =
                (builtBytes s.lit s.tdir[i])[k] := by
            subst e
            rw [ramByte_ramWrite, dif_pos (by omega), List.getElem_eq_iff,
              show 8 * tdirBase s.tdir[i] + k - 8 * tdirBase s.tdir[i] = k by omega, List.getElem?_eq_getElem]
          exact this _ hd
        · have hil : i ∈ l := (List.mem_append.1 hi).resolve_right fun h => by
            simp only [List.mem_singleton] at h
            exact hd (by rw [h])
          rw [ramByte_ramWrite_outside, h4 i hil hp k hk]
          rw [length_builtBytes] at hk ⊢
          by_contra hc
          exact hd (hov i a hp (Nat.pos_of_ne_zero ha) ⟨tdirBase s.tdir[i] + k / 8, by omega⟩)
    · show ramByte .tab (buildOne u a).tab x = _
      rw [e2]
      split
      · exact h5 x hx
      · rename_i ha
        rw [ramByte_ramWrite_outside, h5 x hx]
        have := hx a (Nat.pos_of_ne_zero ha)
        rw [length_builtBytes]
        omega

end Sys2Proof.Machine
end

