-- ==== Sys2Proof/Laws/Sequencer.lean ====
section
/-! SUPPORT. What moving the sequencer on can change: its point with PHASE, and the few registers the ends of the phases
write. -/

namespace Sys2Proof.Machine

/-- t is s with the sequencer elsewhere; PHASE names the phase of the new point. -/
def Moved (s t : State) : Prop :=
  ∃ (p : Point) (sh : Bool) (ms : Vector Bool 32) (mu mr : BitVec 5) (fc bu : Word) (fv : Bool),
    t = { s with
      run.point := p, run.shape := sh, phase := phaseOf p, dec.ms := ms, dec.maxUsed := mu, dec.maxUsedReg := mr
      dec.frameCtr := fc, dec.bitsUsed := bu, status.frameValid := fv }

theorem enter_moved (p : Point) (s : State) : Moved s (enter p s) :=
  ⟨p, s.run.shape, s.dec.ms, s.dec.maxUsed, s.dec.maxUsedReg, s.dec.frameCtr, s.dec.bitsUsed, s.status.frameValid, rfl⟩

/-- A change of the registers the sequencer may write, before a move, is part of the move. -/
theorem Moved.after {s s' t : State} (h : Moved s' t) (sh : Bool) (ms : Vector Bool 32) (mu mr : BitVec 5) (fc bu : Word)
    (fv : Bool)
    (h' : s' = { s with
      run.shape := sh, dec.ms := ms, dec.maxUsed := mu, dec.maxUsedReg := mr, dec.frameCtr := fc, dec.bitsUsed := bu
      status.frameValid := fv }) : Moved s t := by
  obtain ⟨p, sh, ms, mu, mr, fc, bu, fv, rfl⟩ := h
  subst h'
  exact ⟨p, sh, ms, mu, mr, fc, bu, fv, rfl⟩

theorem enterSamples_moved (c : Chan) (n : Subband) (s : State) : Moved s (enterSamples c n s) := by
  unfold enterSamples
  split
  · exact enter_moved _ _
  · exact (enter_moved _ _).after false s.dec.ms s.dec.maxUsed s.dec.maxUsedReg s.dec.frameCtr s.dec.bitsUsed
      s.status.frameValid rfl

theorem enterIndicator_moved (k : Nat) (s : State) : Moved s (enterIndicator k s) := by
  unfold enterIndicator
  split
  · exact enter_moved _ _
  · split
    · exact enter_moved _ _
    · exact enterSamples_moved _ _ _

theorem enterScalefactor_moved (k : Nat) (s : State) : Moved s (enterScalefactor k s) := by
  unfold enterScalefactor
  split
  · exact enter_moved _ _
  · exact enterSamples_moved _ _ _

theorem endBand_moved (n : Subband) (s : State) : Moved s (endBand n s) := by
  unfold endBand
  split
  · exact enter_moved _ _
  · exact (enterIndicator_moved _ _).after s.run.shape s.dec.ms (maxUsedOf s) (maxUsedOf s) s.dec.frameCtr s.dec.bitsUsed
      s.status.frameValid rfl

theorem endChannel_moved (c : Chan) (n : Subband) (s : State) : Moved s (endChannel c n s) := by
  unfold endChannel
  split
  · exact enterSamples_moved _ _ _
  · split
    · exact enterSamples_moved _ _ _
    · exact (enter_moved _ _).after s.run.shape s.dec.ms s.dec.maxUsed s.dec.maxUsedReg s.dec.frameCtr (bitsUsedOf s)
        (frameValidOf s) rfl

theorem nextCoef_moved (c : Chan) (n : Subband) (k : Nat) (s : State) : Moved s (nextCoef c n k s) := by
  unfold nextCoef
  split
  · exact enter_moved _ _
  · exact endChannel_moved _ _ _

theorem nextScf_moved (c : Chan) (n : Subband) (g : Segment) (s : State) : Moved s (nextScf c n g s) := by
  unfold nextScf
  split
  · exact enter_moved _ _
  · exact enterScalefactor_moved _ _

theorem afterResA_moved (c : Chan) (n : Subband) (s : State) : Moved s (afterResA c n s) := by
  unfold afterResA
  split
  · split <;> exact enter_moved _ _
  · exact endBand_moved _ _

theorem afterResB_moved (c : Chan) (n : Subband) (s : State) : Moved s (afterResB c n s) := by
  unfold afterResB
  split
  · exact enter_moved _ _
  · split
    · exact enter_moved _ _
    · exact (endBand_moved _ _).after s.run.shape (setMs s n false).dec.ms s.dec.maxUsed
        s.dec.maxUsedReg s.dec.frameCtr s.dec.bitsUsed s.status.frameValid rfl

theorem afterJump_moved (s : State) : Moved s (afterJump s) := by
  unfold afterJump
  split
  · exact enter_moved _ _
  · exact (enter_moved _ _).after s.run.shape s.dec.ms s.dec.maxUsed s.dec.maxUsedReg (s.dec.frameCtr + 1) s.dec.bitsUsed
      s.status.frameValid rfl

/-- The instruction is a bitstream field. -/
def IsField (i : Instr) : Prop := ∃ v f, i.field v = some f

/-- After any field the sequencer moves, and nothing else happens. -/
theorem sequenceAfter_moved (i : Instr) (h : IsField i) (s : State) : Moved s (sequenceAfter i s) := by
  obtain ⟨v, f, hf⟩ := h
  cases i <;> simp only [Instr.field, reduceCtorEq] at hf <;> simp only [sequenceAfter]
  all_goals first
    | exact afterJump_moved _
    | exact nextCoef_moved _ _ _ _
    | exact endChannel_moved _ _ _
    | exact afterResA_moved _ _ _
    | exact afterResB_moved _ _ _
    | exact enter_moved _ _
    | exact enterIndicator_moved _ _
    | exact nextScf_moved _ _ _ _
    | exact endBand_moved _ _
    | (split <;> first | exact enter_moved _ _ | exact afterResB_moved _ _ _ | exact nextScf_moved _ _ _ _)

/-- A coded subband-channel found by the search is coded, in range and not before its start. -/
theorem nextCoded_spec (s : State) (k : Nat) (c : Chan) (n : Subband) (h : nextCoded s k = some (c, n)) :
    coded s c n = true ∧ n.val ≤ s.dec.maxUsed.toNat ∧ k ≤ chanOrder c n := by
  have := List.find?_some h
  simp only [Bool.and_eq_true, decide_eq_true_eq] at this
  exact ⟨this.2, this.1.2, this.1.1⟩

end Sys2Proof.Machine
end

