-- ==== Sys2Proof/Laws/Meanings.lean ====
section
/-! SUPPORT. What a meaning can change: a field, whichever it is, and BUILD. -/

namespace Sys2Proof.Machine

/-- t is s with registers of DecoderState that fields write, frame data or the shaping variant changed. -/
def Wrote (s t : State) : Prop :=
  ∃ (bp : BitVec 64) (res : Bank (BitVec 8)) (ms : Vector Bool 32) (scf : Bank (Vector (BitVec 8) 3))
    (lastScf : Bank (BitVec 8)) (prng : Prng) (frame : Frame) (shape : Bool),
    t = { s with
      dec.bp := bp, dec.res := res, dec.ms := ms, dec.scf := scf, dec.lastScf := lastScf, dec.prng := prng
      frame := frame, run.shape := shape }

theorem wrote_store (s : State) (k : Nat) (c : Chan) (n : Subband) (g : Segment) (v : BitVec 8) :
    Wrote s (storeScf (advance s k) c n g v) := by
  obtain ⟨scf, lastScf, e⟩ := storeScf_frame (advance s k) c n g v
  rw [e]
  exact ⟨_, s.dec.res, s.dec.ms, scf, lastScf, s.dec.prng, s.frame, s.run.shape, rfl⟩

theorem wrote_writeRes (s : State) (k : Nat) (c : Chan) (n : Subband) (r : Int) :
    Wrote s (writeRes c n r (advance s k)) ∨ ∃ info bp, writeRes c n r (advance s k) = raise .resRange info { s with dec.bp := bp } := by
  rcases writeRes_spec c n r (advance s k) with ⟨-, -, e, -⟩ | ⟨-, e⟩ <;> rw [e]
  · exact .inl ⟨_, _, s.dec.ms, s.dec.scf, s.dec.lastScf, s.dec.prng, s.frame, s.run.shape, rfl⟩
  · exact .inr ⟨_, _, rfl⟩

/-- A field's meaning writes what `Wrote` names, or raises ResRange. -/
theorem exec_field (i : Instr) (s : State) (h : IsField i) :
    ∃ t, exec i s = .next t ∧ (Wrote s t ∨ ∃ info bp, t = raise .resRange info { s with dec.bp := bp }) := by
  obtain ⟨v, f, hf⟩ := h
  cases i <;> simp only [Instr.field, reduceCtorEq] at hf
  case fwdjump j =>
    simp only [exec, execFwdjump]
    split
    · exact ⟨_, rfl, .inl ⟨_, s.dec.res, s.dec.ms, s.dec.scf, s.dec.lastScf, s.dec.prng, s.frame, s.run.shape, rfl⟩⟩
    · exact ⟨_, rfl, .inl ⟨_, s.dec.res, s.dec.ms, s.dec.scf, s.dec.lastScf, s.dec.prng, _, s.run.shape, rfl⟩⟩
  case resA c n e => exact ⟨_, rfl, wrote_writeRes s _ c n _⟩
  case resdB c n e =>
    simp only [exec, execResdB]
    split
    · exact ⟨_, rfl, .inl ⟨_, s.dec.res, s.dec.ms, s.dec.scf, s.dec.lastScf, s.dec.prng, s.frame, s.run.shape, rfl⟩⟩
    · exact ⟨_, rfl, wrote_writeRes s _ c n _⟩
  case scfrawA c n g x => exact ⟨_, rfl, .inl (wrote_store _ _ _ _ _ _)⟩
  case dscfA c n g e => exact ⟨_, rfl, .inl (wrote_store _ _ _ _ _ _)⟩
  case scfxB c n g x => exact ⟨_, rfl, .inl (wrote_store _ _ _ _ _ _)⟩
  case dscfB c n g e =>
    simp only [exec, execDscfB]
    split
    · exact ⟨_, rfl, .inl ⟨_, s.dec.res, s.dec.ms, s.dec.scf, s.dec.lastScf, s.dec.prng, s.frame, s.run.shape, rfl⟩⟩
    · exact ⟨_, rfl, .inl (wrote_store _ _ _ _ _ _)⟩
  case qskip c n =>
    exact ⟨_, rfl, .inl ⟨s.dec.bp, s.dec.res, s.dec.ms, s.dec.scf, s.dec.lastScf, s.dec.prng, s.frame, s.run.shape, rfl⟩⟩
  case qnoise c n =>
    exact ⟨_, rfl, .inl ⟨s.dec.bp, s.dec.res, s.dec.ms, s.dec.scf, s.dec.lastScf, _, _, s.run.shape, rfl⟩⟩
  case res0B c x =>
    exact ⟨_, rfl, .inl ⟨_, _, s.dec.ms, s.dec.scf, s.dec.lastScf, s.dec.prng, s.frame, s.run.shape, rfl⟩⟩
  case resxB c n x =>
    exact ⟨_, rfl, .inl ⟨_, _, s.dec.ms, s.dec.scf, s.dec.lastScf, s.dec.prng, s.frame, s.run.shape, rfl⟩⟩
  case msflagA n m =>
    exact ⟨_, rfl, .inl ⟨_, s.dec.res, _, s.dec.scf, s.dec.lastScf, s.dec.prng, s.frame, s.run.shape, rfl⟩⟩
  case msflagB n m =>
    exact ⟨_, rfl, .inl ⟨_, s.dec.res, _, s.dec.scf, s.dec.lastScf, s.dec.prng, s.frame, s.run.shape, rfl⟩⟩
  case shapeA c n x =>
    exact ⟨_, rfl, .inl ⟨_, s.dec.res, s.dec.ms, s.dec.scf, s.dec.lastScf, s.dec.prng, s.frame, _, rfl⟩⟩
  case shapeB c n x =>
    exact ⟨_, rfl, .inl ⟨_, s.dec.res, s.dec.ms, s.dec.scf, s.dec.lastScf, s.dec.prng, s.frame, _, rfl⟩⟩
  all_goals exact ⟨_, rfl, .inl ⟨_, s.dec.res, s.dec.ms, s.dec.scf, s.dec.lastScf, s.dec.prng, _, s.run.shape, rfl⟩⟩

/-- Building one table writes TAB and TCLS only, and keeps TAB canonical. -/
theorem buildOne_frame (s : State) (i : Fin 34) :
    ∃ tab tcls, buildOne s i = { s with tab := tab, tcls := tcls } ∧ (s.tab.cells.wf → tab.cells.wf) := by
  refine ⟨_, _, rfl, fun h => ?_⟩
  split
  · exact h
  · exact wf_ramWrite _ _ _ h

/-- So does building several. -/
theorem buildFold_frame (l : List (Fin 34)) (s : State) :
    ∃ tab tcls, l.foldl buildOne s = { s with tab := tab, tcls := tcls } ∧ (s.tab.cells.wf → tab.cells.wf) := by
  induction l generalizing s with
  | nil => exact ⟨s.tab, s.tcls, rfl, id⟩
  | cons i l ih =>
    obtain ⟨a, b, e, h⟩ := buildOne_frame s i
    obtain ⟨a', b', e', h'⟩ := ih (buildOne s i)
    refine ⟨a', b', ?_, fun hs => h' ?_⟩
    · rw [List.foldl_cons, e', e]
    · rw [e]; exact h hs

/-- BUILD: a raise with TABLES_READY = 0, or TAB, TCLS, TABLES_READY and ERR_TABLE written (41_huffman.md R159). -/
theorem build_cases (s : State) :
    (∃ i, buildBad s = some i ∧
      build s = raise .tableInvalidBuild (tableNumber (layoutAt i) (idAt i)) { s with status.tablesReady := false }) ∨
    (buildBad s = none ∧ ∃ tab tcls, build s = { s with
      tab := tab, tcls := tcls, status.tablesReady := true, status.errTable := false } ∧
      (s.tab.cells.wf → tab.cells.wf)) := by
  unfold build
  cases h : buildBad s with
  | some i => exact .inl ⟨i, rfl, rfl⟩
  | none =>
    obtain ⟨a, b, e, hw⟩ := buildFold_frame (List.finRange 34) s
    exact .inr ⟨rfl, a, b, by dsimp only; rw [e], hw⟩

/-- The command words (30_encoding.md R101). -/
theorem decodeCmd_cases (w : Word) (i : Instr) (h : decodeCmd w = .ok i) :
    i = .nop ∨ i = .build ∨ i = .openCmd ∨ i = .resync ∨ i = .decode ∨ i = .replay ∨ i = .setpos ∨ i = .seed := by
  unfold decodeCmd at h
  split at h
  · cases h
  · split at h <;> simp_all

end Sys2Proof.Machine
end

