-- ==== Sys2Proof/Laws/PerInstr.lean ====
section
/-! SUPPORT. Statements for all instructions, one lemma per constructor. -/

namespace Sys2Proof.Laws.FieldWidth

/-- The encoding has the length its format says: none for a zero-width field, n <= 20 bits for RAW(n), 1 to 14 bits for a
codeword (30_encoding.md R104, R106, R107). -/
def Statement (i : Instr) : Prop :=
  i.wf = true → ∀ v f, i.field v = some f → ∃ bs, i.encode = .bits bs ∧
    match f with
    | .zero j => bs = [] ∧ j = i
    | .raw n _ => bs.length = n ∧ 1 ≤ n ∧ n ≤ 20
    | .huf _ _ _ => 1 ≤ bs.length ∧ bs.length ≤ 14

theorem statement_raw (i : Instr) (n x : Nat) (mk : Nat → Instr) (hf : ∀ v, i.field v = some (.raw n mk))
    (he : i.encode = .bits (rawCode n x)) (h1 : 1 ≤ n) (h2 : n ≤ 20) : Statement i := by
  intro _ v f h
  rw [hf v, Option.some.injEq] at h
  subst h
  exact ⟨_, he, rawCode_length n x, h1, h2⟩

theorem statement_huf (i : Instr) (e : Entry) (l : Bool → Layout) (t : Bool → Fin 17) (mk : Entry → Instr)
    (hf : ∀ v, i.field v = some (.huf (l v) (t v) mk)) (he : i.encode = .bits (entryCode e))
    (hw : i.wf = true → e.wf = true) : Statement i := by
  intro w v f h
  rw [hf v, Option.some.injEq] at h
  subst h
  have := hw w
  simp only [Entry.wf, Bool.and_eq_true, decide_eq_true_eq] at this
  refine ⟨_, he, ?_, ?_⟩ <;> rw [entryCode, rawCode_length]
  · exact this.1.1.1.1
  · exact this.1.1.1.2

theorem resBits_range (i : Fin 10) : 1 ≤ Machine.resBits i ∧ Machine.resBits i ≤ 20 := by
  unfold Machine.resBits
  omega

theorem wf_of_wfBelow (e : Entry) (hi : Int) (h : e.wfBelow hi = true) : e.wf = true := by
  simp only [Entry.wfBelow, Bool.and_eq_true] at h
  exact h.1.1

theorem nop : Statement (.nop) :=fun _ _ _ h => nomatch h

theorem build : Statement (.build) :=fun _ _ _ h => nomatch h

theorem openCmd : Statement (.openCmd) :=fun _ _ _ h => nomatch h

theorem resync : Statement (.resync) :=fun _ _ _ h => nomatch h

theorem decode : Statement (.decode) :=fun _ _ _ h => nomatch h

theorem replay : Statement (.replay) :=fun _ _ _ h => nomatch h

theorem setpos : Statement (.setpos) :=fun _ _ _ h => nomatch h

theorem seed : Statement (.seed) :=fun _ _ _ h => nomatch h

theorem fwdjump (j : BitVec 20) : Statement (.fwdjump j) :=
  statement_raw _ _ j.toNat _ (fun _ => rfl) rfl (by decide) (by decide)

theorem qfix8 (c : Chan) (n : Subband) (k : Slot) (v : Nat) : Statement (.qfix8 c n k v) :=
  statement_raw _ _ v _ (fun _ => rfl) rfl (resBits_range _).1 (resBits_range _).2

theorem qfix9 (c : Chan) (n : Subband) (k : Slot) (v : Nat) : Statement (.qfix9 c n k v) :=
  statement_raw _ _ v _ (fun _ => rfl) rfl (resBits_range _).1 (resBits_range _).2

theorem qfix10 (c : Chan) (n : Subband) (k : Slot) (v : Nat) : Statement (.qfix10 c n k v) :=
  statement_raw _ _ v _ (fun _ => rfl) rfl (resBits_range _).1 (resBits_range _).2

theorem qfix11 (c : Chan) (n : Subband) (k : Slot) (v : Nat) : Statement (.qfix11 c n k v) :=
  statement_raw _ _ v _ (fun _ => rfl) rfl (resBits_range _).1 (resBits_range _).2

theorem qfix12 (c : Chan) (n : Subband) (k : Slot) (v : Nat) : Statement (.qfix12 c n k v) :=
  statement_raw _ _ v _ (fun _ => rfl) rfl (resBits_range _).1 (resBits_range _).2

theorem qfix13 (c : Chan) (n : Subband) (k : Slot) (v : Nat) : Statement (.qfix13 c n k v) :=
  statement_raw _ _ v _ (fun _ => rfl) rfl (resBits_range _).1 (resBits_range _).2

theorem qfix14 (c : Chan) (n : Subband) (k : Slot) (v : Nat) : Statement (.qfix14 c n k v) :=
  statement_raw _ _ v _ (fun _ => rfl) rfl (resBits_range _).1 (resBits_range _).2

theorem qfix15 (c : Chan) (n : Subband) (k : Slot) (v : Nat) : Statement (.qfix15 c n k v) :=
  statement_raw _ _ v _ (fun _ => rfl) rfl (resBits_range _).1 (resBits_range _).2

theorem qfix16 (c : Chan) (n : Subband) (k : Slot) (v : Nat) : Statement (.qfix16 c n k v) :=
  statement_raw _ _ v _ (fun _ => rfl) rfl (resBits_range _).1 (resBits_range _).2

theorem qfix17 (c : Chan) (n : Subband) (k : Slot) (v : Nat) : Statement (.qfix17 c n k v) :=
  statement_raw _ _ v _ (fun _ => rfl) rfl (resBits_range _).1 (resBits_range _).2

theorem qskip (c : Chan) (n : Subband) : Statement (.qskip c n) := by
  intro _ v f h
  cases h
  exact ⟨[], rfl, rfl, rfl⟩

theorem qnoise (c : Chan) (n : Subband) : Statement (.qnoise c n) := by
  intro _ v f h
  cases h
  exact ⟨[], rfl, rfl, rfl⟩

theorem resA (c : Chan) (n : Subband) (e : Entry) : Statement (.resA c n e) :=
  statement_huf _ e _ _ _ (fun _ => rfl) rfl id

theorem msflagA (n : Subband) (m : Bool) : Statement (.msflagA n m) :=
  statement_raw _ _ m.toNat _ (fun _ => rfl) rfl (by decide) (by decide)

theorem scfiA (c : Chan) (n : Subband) (e : Entry) : Statement (.scfiA c n e) :=
  statement_huf _ e _ _ _ (fun _ => rfl) rfl (wf_of_wfBelow e _)

theorem scfrawA (c : Chan) (n : Subband) (g : Segment) (v : BitVec 6) : Statement (.scfrawA c n g v) :=
  statement_raw _ _ v.toNat _ (fun _ => rfl) rfl (by decide) (by decide)

theorem dscfA (c : Chan) (n : Subband) (g : Segment) (e : Entry) : Statement (.dscfA c n g e) :=
  statement_huf _ e _ _ _ (fun _ => rfl) rfl id

theorem shapeA (c : Chan) (n : Subband) (v : Bool) : Statement (.shapeA c n v) :=
  statement_raw _ _ v.toNat _ (fun _ => rfl) rfl (by decide) (by decide)

theorem q1A (c : Chan) (n : Subband) (k : Slot) (e : Entry) : Statement (.q1A c n k e) :=
  statement_huf _ e _ _ _ (fun _ => rfl) rfl id

theorem q2A (c : Chan) (n : Subband) (k : Slot) (e : Entry) : Statement (.q2A c n k e) :=
  statement_huf _ e _ _ _ (fun _ => rfl) rfl id

theorem q3A (c : Chan) (n : Subband) (k : Slot) (e : Entry) : Statement (.q3A c n k e) :=
  statement_huf _ e _ _ _ (fun _ => rfl) rfl id

theorem q4A (c : Chan) (n : Subband) (k : Slot) (e : Entry) : Statement (.q4A c n k e) :=
  statement_huf _ e _ _ _ (fun _ => rfl) rfl id

theorem q5A (c : Chan) (n : Subband) (k : Slot) (e : Entry) : Statement (.q5A c n k e) :=
  statement_huf _ e _ _ _ (fun _ => rfl) rfl id

theorem q6A (c : Chan) (n : Subband) (k : Slot) (e : Entry) : Statement (.q6A c n k e) :=
  statement_huf _ e _ _ _ (fun _ => rfl) rfl id

theorem q7A (c : Chan) (n : Subband) (k : Slot) (e : Entry) : Statement (.q7A c n k e) :=
  statement_huf _ e _ _ _ (fun _ => rfl) rfl id

theorem res0B (c : Chan) (v : BitVec 4) : Statement (.res0B c v) :=
  statement_raw _ _ v.toNat _ (fun _ => rfl) rfl (by decide) (by decide)

theorem resdB (c : Chan) (n : Subband) (e : Entry) : Statement (.resdB c n e) :=
  statement_huf _ e _ _ _ (fun _ => rfl) rfl (fun h => (Bool.and_eq_true _ _ ▸ h : _ ∧ _).2)

theorem resxB (c : Chan) (n : Subband) (v : BitVec 4) : Statement (.resxB c n v) :=
  statement_raw _ _ v.toNat _ (fun _ => rfl) rfl (by decide) (by decide)

theorem msflagB (n : Subband) (m : Bool) : Statement (.msflagB n m) :=
  statement_raw _ _ m.toNat _ (fun _ => rfl) rfl (by decide) (by decide)

theorem scfiB (c : Chan) (n : Subband) (e : Entry) : Statement (.scfiB c n e) :=
  statement_huf _ e _ _ _ (fun _ => rfl) rfl (wf_of_wfBelow e _)

theorem dscfB (c : Chan) (n : Subband) (g : Segment) (e : Entry) : Statement (.dscfB c n g e) :=
  statement_huf _ e _ _ _ (fun _ => rfl) rfl id

theorem scfxB (c : Chan) (n : Subband) (g : Segment) (v : BitVec 6) : Statement (.scfxB c n g v) :=
  statement_raw _ _ v.toNat _ (fun _ => rfl) rfl (by decide) (by decide)

theorem shapeB (c : Chan) (n : Subband) (v : Bool) : Statement (.shapeB c n v) :=
  statement_raw _ _ v.toNat _ (fun _ => rfl) rfl (by decide) (by decide)

theorem q1B (c : Chan) (n : Subband) (j : Fin 12) (e : Entry) : Statement (.q1B c n j e) :=
  statement_huf _ e _ _ _ (fun _ => rfl) rfl (wf_of_wfBelow e _)

theorem q2B (c : Chan) (n : Subband) (j : Fin 18) (e : Entry) : Statement (.q2B c n j e) :=
  statement_huf _ e _ _ _ (fun _ => rfl) rfl (wf_of_wfBelow e _)

theorem q3B (c : Chan) (n : Subband) (k : Slot) (e : Entry) : Statement (.q3B c n k e) :=
  statement_huf _ e _ _ _ (fun _ => rfl) rfl id

theorem q4B (c : Chan) (n : Subband) (k : Slot) (e : Entry) : Statement (.q4B c n k e) :=
  statement_huf _ e _ _ _ (fun _ => rfl) rfl id

theorem q5B (c : Chan) (n : Subband) (k : Slot) (e : Entry) : Statement (.q5B c n k e) :=
  statement_huf _ e _ _ _ (fun _ => rfl) rfl id

theorem q6B (c : Chan) (n : Subband) (k : Slot) (e : Entry) : Statement (.q6B c n k e) :=
  statement_huf _ e _ _ _ (fun _ => rfl) rfl id

theorem q7B (c : Chan) (n : Subband) (k : Slot) (e : Entry) : Statement (.q7B c n k e) :=
  statement_huf _ e _ _ _ (fun _ => rfl) rfl id

end Sys2Proof.Laws.FieldWidth
end

