-- ==== Sys2Proof/Laws/Step.lean ====
section
/-! SUPPORT. What one step can be. -/

namespace Sys2Proof.Machine

/-- What the fetch decodes is a field. -/
theorem isField_of_fetch (s : State) (f : Field) (i : Instr) (h : fieldAt s = some f) (hd : fetch s f = .ok i) :
    IsField i := by
  have key : (∃ l t mk, f = .huf l t mk ∧ ∀ e, IsField (mk e)) ∨ (∃ n mk, f = .raw n mk ∧ ∀ x, IsField (mk x)) ∨
      ∃ j, f = .zero j ∧ IsField j := by
    unfold fieldAt coefField at h
    split at h <;> (try split at h) <;> simp only [Option.some.injEq, reduceCtorEq] at h <;> subst h
    all_goals first
      | exact .inl ⟨_, _, _, rfl, fun e => ⟨false, _, rfl⟩⟩
      | exact .inr (.inl ⟨_, _, rfl, fun e => ⟨false, _, rfl⟩⟩)
      | exact .inr (.inr ⟨_, rfl, ⟨false, _, rfl⟩⟩)
  unfold fetch decodeField at hd
  rcases key with ⟨l, t, mk, rfl, hk⟩ | ⟨n, mk, rfl, hk⟩ | ⟨j, rfl, hk⟩
  · cases hx : decodeHuf (builtTable s l t) (window s) with
    | ok e => simp only [hx, Except.map, Except.ok.injEq] at hd; exact hd ▸ hk e
    | error e => simp [hx, Except.map] at hd
  · cases hx : decodeRaw n (window s) with
    | ok x => simp only [hx, Except.map, Except.ok.injEq] at hd; exact hd ▸ hk x
    | error e => simp [hx, Except.map] at hd
  · simp only [Except.ok.injEq] at hd; exact hd ▸ hk

/-- At a point with a field the block's step is the field's. -/
theorem blockStep_field (s : State) (f : Field) (h : fieldAt s = some f) : blockStep s = fieldStep s := by
  unfold fieldAt at h
  unfold blockStep
  cases hp : s.run.point <;> simp [hp] at h ⊢

/-- A field step answers next by raising at the fetch or by running the field. -/
theorem fieldStep_cases (s t : State) (h : fieldStep s = .next t) :
    (∃ k info, raiseFatal k = true ∧ t = raise k info s) ∨
      ∃ f i u, fieldAt s = some f ∧ fetch s f = .ok i ∧ exec i s = .next u ∧
        t = if u.status.busy then sequenceAfter i u else u := by
  unfold fieldStep at h
  split at h
  · cases h
  · rename_i f hf
    split at h
    · unfold fetchError at h
      split at h <;> first | (injection h with h; exact .inl ⟨_, _, rfl, h.symm⟩) | cases h
    · rename_i i hi
      unfold thenSequence at h
      split at h
      · rename_i u hu
        injection h with h
        exact .inr ⟨f, i, u, hf, hi, hu, h.symm⟩
      · cases h
      · cases h

/-- A step of a running command: a raise, the requantizer, the synthesis, or a field. -/
theorem blockStep_cases (s t : State) (h : blockStep s = .next t) :
    (∃ k info, raiseFatal k = true ∧ t = raise k info s) ∨ (s.run.point = .requant ∧ t = requantStep s) ∨
      (s.run.point = .synth ∧ t = synthStep s) ∨
      ∃ f i u, fieldAt s = some f ∧ fetch s f = .ok i ∧ exec i s = .next u ∧
        t = if u.status.busy then sequenceAfter i u else u := by
  unfold blockStep at h
  split at h
  · cases h
  · injection h with h
    exact .inr (.inl ⟨‹_›, h.symm⟩)
  · injection h with h
    exact .inr (.inr (.inl ⟨‹_›, h.symm⟩))
  all_goals
    rcases fieldStep_cases s t h with a | a
    · exact .inl a
    · exact .inr (.inr (.inr a))

/-- The requantizer writes Y; in the extra pass the saved registers come back (46_synthesis.md R298). -/
theorem requantStep_frame (s : State) :
    ∃ (y : PerChan (Vector (Vector Num 32) 36)) (bu : Word) (mr : BitVec 5) (fj : BitVec 20) (fv : Bool),
      requantStep s = { s with
        dec.y := y, dec.bitsUsed := bu, dec.maxUsedReg := mr, frame.fwdJump := fj, status.frameValid := fv
        run.point := .synth, phase := .synth } := by
  obtain ⟨y, hy⟩ : ∃ y, requantize s = { s with dec.y := y } := ⟨_, by unfold requantize; rfl⟩
  unfold requantStep
  dsimp only
  rw [hy]
  split
  · exact ⟨y, s.run.save.bitsUsed, s.run.save.maxUsedReg, s.run.save.fwdJump, s.run.save.frameValid, rfl⟩
  · exact ⟨y, s.dec.bitsUsed, s.dec.maxUsedReg, s.frame.fwdJump, s.status.frameValid, rfl⟩

/-- The synthesis ends the command, with or without output, or starts the extra pass. -/
theorem synthStep_cases (s : State) :
    (∃ (hist : PerChan Hist) (dith : Dith) (bs : List Byte) (so : Word) (wm : Bool), synthStep s = { s with
      dec.hist := hist, dec.dith := dith, out := ramWrite s.out 0 bs, regs.samplesOut := so, status.warm := wm
      status.busy := false, phase := .idle, run := Run.reset }) ∨
    (∃ hist : PerChan Hist, synthStep s = { s with
      dec.hist := hist, status.warm := true, status.busy := false, phase := .idle, run := Run.reset }) ∨
    ∃ (hist : PerChan Hist) (y : PerChan (Vector (Vector Num 32) 36)) (r : Run),
      synthStep s = { s with
        dec.hist := hist, dec.y := y, status.warm := true, run := { r with point := .extraJump, extra := true }
        phase := .synth } ∨
      synthStep s = { s with
        dec.hist := hist, dec.y := y, status.warm := true, run := { r with point := s.run.point, extra := true } } := by
  unfold synthStep
  split
  · exact .inl ⟨_, _, _, _, s.status.warm, rfl⟩
  · split
    · exact .inr (.inl ⟨_, rfl⟩)
    · split
      · refine .inr (.inr ?_)
        unfold beginExtra
        split
        · exact ⟨_, s.dec.y, _, .inl rfl⟩
        · exact ⟨_, Decoder.reset.y, _, .inr rfl⟩
      · exact .inl ⟨_, _, _, _, true, rfl⟩

/-- With no act of the host due, a step of a running command is the block's. -/
theorem step_of_noActDue (s : State) (h : noActDue s) (hb : s.status.busy = true) : step s = blockStep s := by
  unfold step
  split
  · rw [h _ _ ‹_›, hb]
    rfl
  · rw [if_pos hb]

/-- A step: an act of the host that is due, the block's work, or nothing. -/
theorem step_cases (s t : State) (h : step s = .next t) :
    (∃ op rest, s.host = op :: rest ∧ (op.now = true ∨ s.status.busy = false) ∧
      hostStep op.act { s with host := rest } = .next t) ∨
    (s.status.busy = true ∧ blockStep s = .next t) ∨ (s.status.busy = false ∧ t = s) := by
  unfold step at h
  split at h
  · split at h
    · exact .inl ⟨_, _, ‹_›, by simp_all, h⟩
    · exact .inr (.inl ⟨by simp_all, h⟩)
  · split at h
    · exact .inr (.inl ⟨‹_›, h⟩)
    · injection h with h
      exact .inr (.inr ⟨by simp_all, h.symm⟩)

/-- The first step of a run. -/
theorem run_next (k : Nat) (s m : State) (h : step s = .next m) :
    (Host.Core.run Sys2Proof.core (k + 1) s : Host.Outcome State Fault Refusal) = Host.Core.run Sys2Proof.core k m := by
  have h' : Sys2Proof.core.step s = .next m := h
  exact (Host.Core.run.eq_2 Sys2Proof.core s k).trans (by rw [h'])

/-- The last step of a run. -/
theorem run_last (k : Nat) (s m : State)
    (h : (Host.Core.run Sys2Proof.core k s : Host.Outcome State Fault Refusal) = .next m) :
    (Host.Core.run Sys2Proof.core (k + 1) s : Host.Outcome State Fault Refusal) = step m := by
  have eq (k : Nat) (s : State) := Host.Core.run.eq_2 Sys2Proof.core s k
  induction k generalizing s with
  | zero =>
    have h : (Host.Outcome.next s : Host.Outcome State Fault Refusal) = .next m := h
    injection h with h
    subst h
    cases hs : step s with
    | next s' => rw [run_next _ _ _ hs]; rfl
    | fault r => exact (eq 0 s).trans (by rw [show Sys2Proof.core.step s = .fault r from hs]; rfl)
    | refused r => exact (eq 0 s).trans (by rw [show Sys2Proof.core.step s = .refused r from hs]; rfl)
  | succ k ih =>
    cases hs : step s with
    | next s' => rw [run_next _ _ _ hs] at h ⊢; exact ih s' h
    | fault r =>
      have := h.symm.trans ((eq k s).trans (by rw [show Sys2Proof.core.step s = .fault r from hs]) : _ = .fault r)
      cases this
    | refused r =>
      have := h.symm.trans ((eq k s).trans (by rw [show Sys2Proof.core.step s = .refused r from hs]) : _ = .refused r)
      cases this

/-- An access that is stopped answers no next state. -/
theorem accessStop_not_next (s t : State) (wr : Bool) (w : Window) (a width : Nat) :
    accessStop s wr w a width ≠ some (.next t) := by
  intro h
  unfold accessStop at h
  split at h
  · cases h
  · split at h
    · cases h
    · split at h <;> cases h

/-- Of the registers only CMD may be written while BUSY = 1. -/
theorem accessStop_none_idle (s : State) (w : Window) (a width : Nat) (h : accessStop s true w a width = none)
    (ha : w ≠ .reg ∨ a ≠ 0) : s.status.busy = false := by
  by_contra hb
  unfold accessStop at h
  split at h
  · cases h
  · split at h
    · cases h
    · split at h
      · cases h
      · rename_i h1
        cases w <;> simp_all [busyAllowed]

/-- A change of STREAM writes STREAM, and marks it dirty when a stream is open (70_reset_and_hazards.md R374). -/
theorem putStream_frame (a : Nat) (b : Byte) (s : State) :
    ∃ dirty k, putStream a b s = { s with stream := ramWrite s.stream a [b], streamDirty := dirty, freeCtr := k } := by
  unfold putStream
  dsimp only
  split
  · exact ⟨_, _, rfl⟩
  · exact ⟨s.streamDirty, s.freeCtr, rfl⟩

/-- What a host act can do. -/
theorem hostStep_cases (act : HostAct) (s t : State) (h : hostStep act s = .next t) :
    (∃ w i, s.status.busy = false ∧ decodeCmd w = .ok i ∧ exec i s = .next t) ∨ (∃ w, t = illegal s w) ∨
      (∃ tdir regs, t = { s with tdir := tdir, regs := regs } ∧ s.status.busy = false) ∨
      (∃ a v, t = { s with lit := ramWrite s.lit a (wordBytes v) } ∧ s.status.busy = false ∧ s.status.tablesReady = false) ∨
      (∃ x, t = { s with hostData := x }) ∨
      (∃ a v, t = { s with out := ramWrite s.out a (wordBytes v) } ∧ s.status.busy = false) ∨
      (∃ a b dirty k, t = { s with stream := ramWrite s.stream a [b], streamDirty := dirty, freeCtr := k }) ∨
      t = hardwareReset s := by
  unfold hostStep at h
  split at h
  · rename_i w a width v
    cases hs : accessStop s true w a width with
    | some r =>
      simp only [hs, Option.getD_some] at h
      exact absurd (h ▸ hs) (accessStop_not_next _ _ _ _ _ _)
    | none =>
      simp only [hs, Option.getD_none] at h
      unfold windowWrite at h
      split at h
      · split at h
        · split at h
          · cases h
            exact .inr (.inl ⟨_, rfl⟩)
          · unfold runCommand at h
            split at h
            · exact .inl ⟨_, _, by simp_all, ‹_›, h⟩
            · cases h
              exact .inr (.inl ⟨_, rfl⟩)
        · rename_i h0
          have hb := accessStop_none_idle s .reg a width hs (.inr h0)
          cases h
          refine .inr (.inr (.inl ?_))
          unfold regWrite
          split
          · split
            · exact ⟨s.tdir, s.regs, rfl, hb⟩
            · exact ⟨_, s.regs, rfl, hb⟩
          · exact ⟨s.tdir, _, rfl, hb⟩
      · have hb := accessStop_none_idle s .lit a width hs (.inl (by decide))
        split at h
        · cases h
          exact .inr (.inr (.inr (.inr (.inl ⟨s.hostData, rfl⟩))))
        · cases h
          exact .inr (.inr (.inr (.inl ⟨_, _, rfl, hb, by simp_all⟩)))
      · cases h
        exact .inr (.inr (.inr (.inr (.inl ⟨s.hostData, rfl⟩))))
      · have hb := accessStop_none_idle s .out a width hs (.inl (by decide))
        cases h
        split
        · exact .inr (.inr (.inr (.inr (.inr (.inl ⟨_, _, rfl, hb⟩)))))
        · exact .inr (.inr (.inr (.inr (.inl ⟨s.hostData, rfl⟩))))
  · rename_i w a width
    cases hs : accessStop s false w a width with
    | some r =>
      simp only [hs, Option.getD_some] at h
      exact absurd (h ▸ hs) (accessStop_not_next _ _ _ _ _ _)
    | none =>
      simp only [hs, Option.getD_none] at h
      cases h
      exact .inr (.inr (.inr (.inr (.inl ⟨_, rfl⟩))))
  · rename_i a b
    split at h
    · cases h
    · cases h
      obtain ⟨d, k, e⟩ := putStream_frame a b s
      exact .inr (.inr (.inr (.inr (.inr (.inr (.inl ⟨a, b, d, k, e⟩))))))
  · cases h
    exact .inr (.inr (.inr (.inr (.inr (.inr (.inr rfl))))))

end Sys2Proof.Machine
end

