-- ==== Sys2Proof/Laws/Synthesis.lean ====
section
/-! SUPPORT. What the filterbank and the output stage produce, element by element. -/

namespace Sys2Proof.Machine

/-- The history after k slots. -/
def histAt : Hist → List (Vector Num 32) → Nat → Hist
  | h, _, 0 => h
  | h, [], _ + 1 => h
  | h, x :: xs, k + 1 => histAt (Config.synthSlot h x).1 xs k

theorem histAt_succ (xs : List (Vector Num 32)) (h : Hist) (k : Nat) (hk : k < xs.length) :
    histAt h xs (k + 1) = (Config.synthSlot (histAt h xs k) xs[k]).1 := by
  induction xs generalizing h k with
  | nil => simp at hk
  | cons x xs ih =>
    cases k with
    | zero => simp [histAt]
    | succ k =>
      simp only [List.length_cons] at hk
      simp only [histAt, List.getElem_cons_succ]
      exact ih _ k (by omega)

/-- The filter leaves the history of all its slots. -/
theorem synthChan_hist (xs : List (Vector Num 32)) (h : Hist) : (synthChan h xs).1 = histAt h xs xs.length := by
  induction xs generalizing h with
  | nil => rfl
  | cons x xs ih => simp only [synthChan, List.length_cons, histAt, ih]

@[simp] theorem synthChan_length (xs : List (Vector Num 32)) (h : Hist) :
    (synthChan h xs).2.length = 32 * xs.length := by
  induction xs generalizing h with
  | nil => rfl
  | cons x xs ih => simp only [synthChan, List.length_append, Vector.length_toList, List.length_cons, ih]; omega

/-- Sample 32 k + j is output j of slot k (46_synthesis.md R292). -/
theorem synthChan_sample (xs : List (Vector Num 32)) (h : Hist) (k j : Nat) (hk : k < xs.length) (hj : j < 32) :
    (synthChan h xs).2[32 * k + j]? = some (Config.synthSlot (histAt h xs k) xs[k]).2[j] := by
  induction xs generalizing h k with
  | nil => simp at hk
  | cons x xs ih =>
    simp only [synthChan]
    cases k with
    | zero =>
      rw [List.getElem?_append_left (by simp; omega)]
      simp [histAt, hj]
    | succ k =>
      simp only [List.length_cons] at hk
      rw [List.getElem?_append_right (by simp; omega)]
      simp only [Vector.length_toList, histAt, List.getElem_cons_succ]
      rw [← ih _ k (by omega)]
      congr 1
      omega

/-- Interleaving puts the samples of time t at elements 2 t and 2 t + 1 (46_synthesis.md R300). -/
theorem interleave_spec (xs ys : List Num) (h : xs.length = ys.length) :
    (interleave xs ys).length = 2 * xs.length ∧
      ∀ t (ht : t < xs.length), (interleave xs ys)[2 * t]? = some (.l, xs[t]) ∧
        (interleave xs ys)[2 * t + 1]? = some (.r, ys[t]'(h ▸ ht)) := by
  induction xs generalizing ys with
  | nil => cases ys <;> simp [interleave] at *
  | cons x xs ih =>
    cases ys with
    | nil => simp at h
    | cons y ys =>
      obtain ⟨h1, h2⟩ := ih ys (by simpa using h)
      refine ⟨by simp only [interleave, List.length_cons, h1]; omega, ?_⟩
      intro t ht
      cases t with
      | zero => simp [interleave]
      | succ t =>
        simp only [List.length_cons] at ht
        have := h2 t (by omega)
        rw [show 2 * (t + 1) = 2 * t + 1 + 1 by omega]
        simpa [interleave] using this

/-- The dither state before element e (46_synthesis.md R302). -/
def dithAt : Dith → List (Chan × Num) → Nat → Dith
  | d, _, 0 => d
  | d, [], _ + 1 => d
  | d, (c, x) :: xs, e + 1 => dithAt (Config.toFixed d c x).1 xs e

theorem toFixedAll_spec (xs : List (Chan × Num)) (d : Dith) :
    (toFixedAll d xs).1 = dithAt d xs xs.length ∧ (toFixedAll d xs).2.length = xs.length ∧
      ∀ e c x, xs[e]? = some (c, x) → dithAt d xs (e + 1) = (Config.toFixed (dithAt d xs e) c x).1 ∧
        (toFixedAll d xs).2[e]? = some (.ofInt 32 (Config.toFixed (dithAt d xs e) c x).2) := by
  induction xs generalizing d with
  | nil => exact ⟨rfl, rfl, by simp⟩
  | cons y ys ih =>
    obtain ⟨c', x'⟩ := y
    obtain ⟨h1, h2, h3⟩ := ih (Config.toFixed d c' x').1
    refine ⟨by simp only [toFixedAll, List.length_cons, dithAt, h1], by simp only [toFixedAll, List.length_cons, h2], ?_⟩
    intro e c x he
    cases e with
    | zero => simp at he; obtain ⟨rfl, rfl⟩ := he; simp [dithAt, toFixedAll]
    | succ e =>
      simp only [List.getElem?_cons_succ] at he
      simpa [dithAt, toFixedAll] using h3 e c x he

/-! Words written back to back. -/

@[simp] theorem length_flatMap_wordBytes (ws : List Word) : (ws.flatMap wordBytes).length = 4 * ws.length := by
  induction ws with
  | nil => rfl
  | cons w ws ih => simp only [List.flatMap_cons, List.length_append, length_wordBytes, ih, List.length_cons]; omega

theorem getElem?_flatMap_wordBytes (ws : List Word) (e i : Nat) (he : e < ws.length) (hi : i < 4) :
    (ws.flatMap wordBytes)[4 * e + i]? = (wordBytes ws[e])[i]? := by
  induction ws generalizing e with
  | nil => simp at he
  | cons w ws ih =>
    rw [List.flatMap_cons]
    cases e with
    | zero => rw [List.getElem?_append_left (by rw [length_wordBytes]; omega)]; simp
    | succ e =>
      simp only [List.length_cons] at he
      rw [List.getElem?_append_right (by rw [length_wordBytes]; omega)]
      simp only [List.getElem_cons_succ]
      rw [← ih e (by omega), length_wordBytes]
      congr 1
      omega

/-- Element e of a block of words written at address a reads back (20_memory.md R73, R76). -/
theorem ramWord_ramWrite_words (sp : Space) (m : Ram) (a : Nat) (ws : List Word) (e : Nat) (he : e < ws.length) :
    ramWord sp (ramWrite m a (ws.flatMap wordBytes)) (a + 4 * e) = ws[e] := by
  have h : ∀ i, (hi : i < 4) → ramByte sp (ramWrite m a (ws.flatMap wordBytes)) (a + 4 * e + i) = (wordBytes ws[e])[i] := by
    intro i hi
    have hb := getElem?_flatMap_wordBytes ws e i he hi
    rw [ramByte_ramWrite, dif_pos (by rw [length_flatMap_wordBytes]; omega)]
    rw [List.getElem?_eq_getElem (by rw [length_flatMap_wordBytes]; omega),
      List.getElem?_eq_getElem (by rw [length_wordBytes]; omega), Option.some.injEq] at hb
    refine Eq.trans ?_ hb
    congr 1
    omega
  have h0 := h 0 (by omega)
  rw [Nat.add_zero] at h0
  rw [ramWord, h 3 (by omega), h 2 (by omega), h 1 (by omega), h0]
  exact append_wordBytes ws[e]

end Sys2Proof.Machine
end

