-- ==== Sys2Proof/Tests/Slice0.lean ====
section
/-! SUPPORT. Small tests: the encodings written out, one or two results per instruction, and a witness for every statement
with hypotheses. The expected values are the spec's own: the examples of the rule files and the vectors and code lists of
95_test_vectors.md (named in each comment), or the reset table of 10_state.md R69. -/

open Sys2Proof Sys2Proof.Machine

namespace Sys2Proof.Tests

/-- A running command of a stream of layout `l`, every resolution `r`, the sequencer at `p`. -/
def at_ (l : Layout) (p : Point) (r : BitVec 8) : State :=
  { State.reset with
    status.busy := true, status.opened := true, latched.layout := l, latched.maxBand := 31, phase := phaseOf p
    dec.res := bankFill r, run.point := p }

/-- No table is built. -/
def noTables (_ : Layout) (_ : Fin 17) : Table := ⟨0, []⟩

/-- The instruction read at a state whose only built table is (l, t), of the SLOW class, from the given bits. -/
def reads (s : State) (l : Layout) (t : Fin 17) (es : List Entry) (bits : List Nat) : Option Instr :=
  (fieldAt s).bind fun f =>
    (decodeField f (fun l' t' => if l' = l ∧ t' = t then ⟨3, es⟩ else ⟨0, []⟩) (bits.map (some <| · == 1))).toOption

/-! Decoding: every constructor from a word or a bit string written out from the spec (95_test_vectors.md 1.4, F, A, B). -/

theorem test_decode_fwdjump : reads (at_ .a .fwdJump 0) .a 0 []
    [0, 0, 0, 0, 0, 0, 0, 0, 0, 0, 0, 0, 0, 0, 1, 0, 1, 0, 1, 0] = some (.fwdjump 42) := by decide

theorem test_decode_resA : reads (at_ .a (.res .l 3) 0) .a 0
    [⟨0x80000000, 4, -1⟩, ⟨0x00000000, 1, 0⟩, ⟨0x90000000, 5, 1⟩, ⟨0xA0000000, 5, 3⟩, ⟨0xF8000000, 5, 14⟩] [1, 0, 0, 0] =
    some (.resA .l 3 ⟨0x80000000, 4, -1⟩) := by decide

theorem test_decode_msflagA : reads (at_ .a (.ms 2) 0) .a 0 [] [1] = some (.msflagA 2 true) := by decide

theorem test_decode_scfiA : reads (at_ .a (.scfi .r 1) 0) .a 1
    [⟨0x00000000, 3, 0⟩, ⟨0xA0000000, 3, 5⟩, ⟨0xC0000000, 3, 6⟩] [1, 0, 1] =
    some (.scfiA .r 1 ⟨0xA0000000, 3, 5⟩) := by decide

theorem test_decode_scfrawA : reads (at_ .a (.scf .l 0 1) 0) .a 0 [] [1, 0, 1, 0, 0, 0] = some (.scfrawA .l 0 1 40) := by decide

theorem test_decode_dscfA : reads ({ at_ .a (.scf .l 0 2) 0 with frame.dflag := bankFill true }) .a 2
    [⟨0x80000000, 4, -6⟩, ⟨0xC0000000, 5, -2⟩, ⟨0x00000000, 1, 0⟩, ⟨0xF8000000, 5, 6⟩] [1, 1, 0, 0, 0] =
    some (.dscfA .l 0 2 ⟨0xC0000000, 5, -2⟩) := by decide

theorem test_decode_shapeA : reads (at_ .a (.shape .l 4) 3) .a 0 [] [1] = some (.shapeA .l 4 true) := by decide

theorem test_decode_q1A : reads (at_ .a (.coef .l 0 35) 1) .a 3
    [⟨0x80000000, 2, -1⟩, ⟨0x00000000, 1, 0⟩, ⟨0xC0000000, 2, 1⟩] [1, 1] =
    some (.q1A .l 0 35 ⟨0xC0000000, 2, 1⟩) := by decide

theorem test_decode_q2A : reads (at_ .a (.coef .l 0 35) 2) .a 4
    [⟨0x80000000, 3, -2⟩, ⟨0x00000000, 1, 0⟩, ⟨0xE0000000, 3, 2⟩] [1, 0, 0] =
    some (.q2A .l 0 35 ⟨0x80000000, 3, -2⟩) := by decide

theorem test_decode_q3A : reads (at_ .a (.coef .l 0 35) 3) .a 5
    [⟨0x80000000, 3, -3⟩, ⟨0xE0000000, 4, 2⟩, ⟨0xF0000000, 4, 3⟩] [1, 1, 1, 0] =
    some (.q3A .l 0 35 ⟨0xE0000000, 4, 2⟩) := by decide

theorem test_decode_q4A : reads (at_ .a (.coef .l 0 35) 4) .a 6
    [⟨0x80000000, 4, -4⟩, ⟨0x00000000, 1, 0⟩, ⟨0xF0000000, 4, 4⟩] [1, 0, 0, 0] =
    some (.q4A .l 0 35 ⟨0x80000000, 4, -4⟩) := by decide

theorem test_decode_q5A : reads (at_ .a (.coef .l 0 35) 5) .a 7
    [⟨0x80000000, 4, -7⟩, ⟨0x00000000, 1, 0⟩, ⟨0xF8000000, 5, 7⟩] [1, 1, 1, 1, 1] =
    some (.q5A .l 0 35 ⟨0xF8000000, 5, 7⟩) := by decide

theorem test_decode_q6A : reads (at_ .a (.coef .l 0 35) 6) .a 8
    [⟨0x80000000, 5, -15⟩, ⟨0x00000000, 1, 0⟩, ⟨0xFC000000, 6, 15⟩] [1, 0, 0, 0, 0] =
    some (.q6A .l 0 35 ⟨0x80000000, 5, -15⟩) := by decide

theorem test_decode_q7A : reads (at_ .a (.coef .l 0 35) 7) .a 9
    [⟨0x80000000, 6, -31⟩, ⟨0x00000000, 1, 0⟩, ⟨0xFE000000, 7, 31⟩] [1, 1, 1, 1, 1, 1, 1] =
    some (.q7A .l 0 35 ⟨0xFE000000, 7, 31⟩) := by decide

theorem test_decode_res0B : reads (at_ .b (.res .l 0) 0) .a 0 [] [0, 0, 0, 1] = some (.res0B .l 1) := by decide

theorem test_decode_resdB : reads (at_ .b (.res .l 1) 0) .b 0
    [⟨0xFF000000, 9, -4⟩, ⟨0x80000000, 2, -1⟩, ⟨0x00000000, 1, 0⟩, ⟨0xC0000000, 3, 1⟩, ⟨0xE0000000, 4, 4⟩] [1, 1, 1, 1, 1, 1, 1, 1, 0] =
    some (.resdB .l 1 ⟨0xFF000000, 9, -4⟩) := by decide

theorem test_decode_resxB : reads (at_ .b (.resX .r 31) 0) .a 0 [] [0, 0, 1, 1] = some (.resxB .r 31 3) := by decide

theorem test_decode_msflagB : reads (at_ .b (.ms 31) 0) .a 0 [] [0] = some (.msflagB 31 false) := by decide

theorem test_decode_scfiB : reads (at_ .b (.scfi .l 0) 0) .b 1
    [⟨0x00000000, 2, 0⟩, ⟨0x40000000, 2, 1⟩, ⟨0x80000000, 2, 2⟩, ⟨0xC0000000, 2, 3⟩] [0, 1] =
    some (.scfiB .l 0 ⟨0x40000000, 2, 1⟩) := by decide

theorem test_decode_dscfB : reads (at_ .b (.scf .r 0 0) 0) .b 2
    [⟨0x00000000, 4, -7⟩, ⟨0x50000000, 4, -2⟩, ⟨0xF0000000, 4, 8⟩] [1, 1, 1, 1] =
    some (.dscfB .r 0 0 ⟨0xF0000000, 4, 8⟩) := by decide

theorem test_decode_scfxB : reads (at_ .b (.scfX .r 0 0) 0) .a 0 [] [1, 0, 1, 0, 0, 0] = some (.scfxB .r 0 0 40) := by decide

theorem test_decode_shapeB : reads (at_ .b (.shape .r 0) 7) .a 0 [] [0] = some (.shapeB .r 0 false) := by decide

theorem test_decode_q1B : reads (at_ .b (.coef .l 0 33) 1) .b 3
    [⟨0x00000000, 4, 0⟩, ⟨0x80000000, 5, 11⟩, ⟨0xF8000000, 5, 26⟩] [1, 0, 0, 0, 0] =
    some (.q1B .l 0 11 ⟨0x80000000, 5, 11⟩) := by decide

theorem test_decode_q2B : reads (at_ .b (.coef .l 0 34) 2) .b 4
    [⟨0x00000000, 4, 0⟩, ⟨0xB0000000, 5, 15⟩, ⟨0xF8000000, 5, 24⟩] [1, 0, 1, 1, 0] =
    some (.q2B .l 0 17 ⟨0xB0000000, 5, 15⟩) := by decide

theorem test_decode_q3B : reads (at_ .b (.coef .l 0 35) 3) .b 5
    [⟨0x00000000, 2, -3⟩, ⟨0x80000000, 3, 0⟩, ⟨0xE0000000, 3, 3⟩] [1, 0, 0] =
    some (.q3B .l 0 35 ⟨0x80000000, 3, 0⟩) := by decide

theorem test_decode_q4B : reads (at_ .b (.coef .l 0 35) 4) .b 6
    [⟨0x00000000, 3, -4⟩, ⟨0xF0000000, 4, 4⟩] [0, 0, 0] =
    some (.q4B .l 0 35 ⟨0x00000000, 3, -4⟩) := by decide

theorem test_decode_q5B : reads (at_ .b (.coef .l 0 35) 5) .b 7
    [⟨0x00000000, 3, -7⟩, ⟨0xF0000000, 4, 7⟩] [1, 1, 1, 1] =
    some (.q5B .l 0 35 ⟨0xF0000000, 4, 7⟩) := by decide

theorem test_decode_q6B : reads (at_ .b (.coef .l 0 35) 6) .b 8
    [⟨0x00000000, 4, -15⟩, ⟨0x80000000, 5, 0⟩, ⟨0xF8000000, 5, 15⟩] [1, 1, 1, 1, 1] =
    some (.q6B .l 0 35 ⟨0xF8000000, 5, 15⟩) := by decide

theorem test_decode_q7B : reads (at_ .b (.coef .l 0 35) 7) .b 9
    [⟨0x00000000, 5, -31⟩, ⟨0xFC000000, 6, 31⟩] [0, 0, 0, 0, 0] =
    some (.q7B .l 0 35 ⟨0x00000000, 5, -31⟩) := by decide

theorem test_decode_q7B_shaped : reads ({ at_ .b (.coef .r 9 0) 7 with run.shape := true }) .b 16
    [⟨0x80000000, 6, -31⟩, ⟨0x00000000, 1, 0⟩, ⟨0xFE000000, 7, 31⟩] [1, 1, 1, 1, 1, 1, 1] =
    some (.q7B .r 9 0 ⟨0xFE000000, 7, 31⟩) := by decide

theorem test_decode_zero_width : reads (at_ .a (.coef .l 0 0) 0) .a 0 [] [] = some (.qskip .l 0) ∧
    reads (at_ .b (.coef .r 9 0) 255) .a 0 [] [] = some (.qnoise .r 9) := by decide

theorem test_decode_qfix8 (h : resBits 0 = 7) :
    (fieldAt (at_ .a (.coef .r 2 5) 8)).map (fun f => (decodeField f noTables (List.replicate 7 (some true))).toOption) =
    some (some (.qfix8 .r 2 5 127)) := by
  show some (decodeField (.raw (resBits 0) _) _ _).toOption = _
  rw [h]
  decide

theorem test_decode_qfix9 (h : resBits 1 = 8) :
    (fieldAt (at_ .a (.coef .r 2 5) 9)).map (fun f => (decodeField f noTables (List.replicate 8 (some true))).toOption) =
    some (some (.qfix9 .r 2 5 255)) := by
  show some (decodeField (.raw (resBits 1) _) _ _).toOption = _
  rw [h]
  decide

theorem test_decode_qfix10 (h : resBits 2 = 9) :
    (fieldAt (at_ .a (.coef .r 2 5) 10)).map (fun f => (decodeField f noTables (List.replicate 9 (some true))).toOption) =
    some (some (.qfix10 .r 2 5 511)) := by
  show some (decodeField (.raw (resBits 2) _) _ _).toOption = _
  rw [h]
  decide

theorem test_decode_qfix11 (h : resBits 3 = 10) :
    (fieldAt (at_ .a (.coef .r 2 5) 11)).map (fun f => (decodeField f noTables (List.replicate 10 (some true))).toOption) =
    some (some (.qfix11 .r 2 5 1023)) := by
  show some (decodeField (.raw (resBits 3) _) _ _).toOption = _
  rw [h]
  decide

theorem test_decode_qfix12 (h : resBits 4 = 11) :
    (fieldAt (at_ .a (.coef .r 2 5) 12)).map (fun f => (decodeField f noTables (List.replicate 11 (some true))).toOption) =
    some (some (.qfix12 .r 2 5 2047)) := by
  show some (decodeField (.raw (resBits 4) _) _ _).toOption = _
  rw [h]
  decide

theorem test_decode_qfix13 (h : resBits 5 = 12) :
    (fieldAt (at_ .a (.coef .r 2 5) 13)).map (fun f => (decodeField f noTables (List.replicate 12 (some true))).toOption) =
    some (some (.qfix13 .r 2 5 4095)) := by
  show some (decodeField (.raw (resBits 5) _) _ _).toOption = _
  rw [h]
  decide

theorem test_decode_qfix14 (h : resBits 6 = 13) :
    (fieldAt (at_ .a (.coef .r 2 5) 14)).map (fun f => (decodeField f noTables (List.replicate 13 (some true))).toOption) =
    some (some (.qfix14 .r 2 5 8191)) := by
  show some (decodeField (.raw (resBits 6) _) _ _).toOption = _
  rw [h]
  decide

theorem test_decode_qfix15 (h : resBits 7 = 14) :
    (fieldAt (at_ .a (.coef .r 2 5) 15)).map (fun f => (decodeField f noTables (List.replicate 14 (some true))).toOption) =
    some (some (.qfix15 .r 2 5 16383)) := by
  show some (decodeField (.raw (resBits 7) _) _ _).toOption = _
  rw [h]
  decide

theorem test_decode_qfix16 (h : resBits 8 = 15) :
    (fieldAt (at_ .a (.coef .r 2 5) 16)).map (fun f => (decodeField f noTables (List.replicate 15 (some true))).toOption) =
    some (some (.qfix16 .r 2 5 32767)) := by
  show some (decodeField (.raw (resBits 8) _) _ _).toOption = _
  rw [h]
  decide

theorem test_decode_qfix17 (h : resBits 9 = 16) :
    (fieldAt (at_ .a (.coef .r 2 5) 17)).map (fun f => (decodeField f noTables (List.replicate 16 (some true))).toOption) =
    some (some (.qfix17 .r 2 5 65535)) := by
  show some (decodeField (.raw (resBits 9) _) _ _).toOption = _
  rw [h]
  decide
/-! Ill-formed terms are refused, one for each check of WellFormed. -/

theorem test_wf_length_zero : Instr.wf (.resA .l 0 ⟨0, 0, 0⟩) = false := by decide
theorem test_wf_length_above_14 : Instr.wf (.dscfA .l 0 0 ⟨0x80000000, 15, 0⟩) = false := by decide
theorem test_wf_stray_code_bits : Instr.wf (.q1A .l 0 0 ⟨0xA0000000, 2, 0⟩) = false := by decide
theorem test_wf_value_below : Instr.wf (.q7A .l 0 0 ⟨0x80000000, 1, -256⟩) = false := by decide
theorem test_wf_value_above : Instr.wf (.q7B .l 0 0 ⟨0x80000000, 1, 64⟩) = false := by decide
theorem test_wf_value_edges : Instr.wf (.q7B .l 0 0 ⟨0x80000000, 1, 63⟩) = true ∧
    Instr.wf (.dscfB .l 0 0 ⟨0x80000000, 1, -255⟩) = true := by decide
theorem test_wf_scfiA_above : Instr.wf (.scfiA .l 0 ⟨0, 1, 8⟩) = false := by decide
theorem test_wf_scfiA_negative : Instr.wf (.scfiA .l 0 ⟨0, 1, -1⟩) = false := by decide
theorem test_wf_scfiB_above : Instr.wf (.scfiB .l 0 ⟨0, 1, 4⟩) = false := by decide
theorem test_wf_q1B_above : Instr.wf (.q1B .l 0 0 ⟨0, 1, 27⟩) = false := by decide
theorem test_wf_q2B_above : Instr.wf (.q2B .l 0 0 ⟨0, 1, 25⟩) = false := by decide
theorem test_wf_resdB_subband_zero : Instr.wf (.resdB .l 0 ⟨0, 1, 0⟩) = false := by decide
theorem test_wf_resxB_subband_zero : Instr.wf (.resxB .l 0 3) = false := by decide
theorem test_wf_qfix_too_wide (c : Chan) (n : Subband) (k : Slot) :
    Instr.wf (.qfix8 c n k (2 ^ resBits 0)) = false ∧ Instr.wf (.qfix17 c n k (2 ^ resBits 9)) = false := by
  simp [Instr.wf, qfixWf]

/-! Reserved encodings are rejected by name (30_encoding.md R116). -/

theorem test_decode_reserved_op : decodeCmd 8 = .error .reservedOp := by decide
theorem test_decode_upper_bits : decodeCmd 0x17 = .error .upperBits := by decide
theorem test_decode_commands : (List.range 8).map (fun w => decodeCmd (.ofNat 32 w)) =
    [.ok .nop, .ok .build, .ok .openCmd, .ok .resync, .ok .decode, .ok .replay, .ok .setpos, .ok .seed] := by decide
/-- 41_huffman.md R165: an absent table, and a bit pattern without a codeword (95_test_vectors.md H18). -/
theorem test_decode_no_codeword : decodeHuf ⟨1, [⟨0x80000000, 2, -1⟩, ⟨0, 1, 0⟩]⟩ [some true, some true] =
    .error .noCodeword := by decide
theorem test_decode_absent_table : decodeHuf ⟨0, []⟩ [some true] = .error .tableAbsent := by decide
/-- A codeword that reaches past the end fails at its first unreadable bit (95_test_vectors.md H10). -/
theorem test_decode_codeword_cut : decodeHuf ⟨2, [⟨0xC0000000, 3, 1⟩, ⟨0, 1, 0⟩]⟩ [some true, some true, none] =
    .error (.readFail 2) := by decide
/-- The window may reach past the end (95_test_vectors.md H9). -/
theorem test_decode_window_past_end : decodeHuf ⟨2, [⟨0xC0000000, 3, 1⟩, ⟨0, 1, 0⟩]⟩ [some false, none] =
    .ok ⟨0, 1, 0⟩ := by decide
theorem test_decode_row_word : decodeTableWord 32 5 = some .replay ∧ decodeTableWord 24 42 = some (.fwdjump 42) := by decide

/-! Results, from the examples of the rule files and the vectors of 95_test_vectors.md. -/

/-- A value of the next state. -/
def out {α : Type} (r : Result) (f : State → α) : Option α :=
  match r with
  | .next t => some (f t)
  | _ => none

/-- K1: NOP clears ERR_CMD. -/
theorem test_nop : out (exec .nop { State.reset with status.tablesReady := true, status.errCmd := true })
    (fun t => statusWord t.status) = some 2 := by decide
/-- H19: an empty directory is well formed. -/
theorem test_build_empty : out (exec .build State.reset) (fun t => (statusWord t.status, t.tcls[33])) = some (2, 0) := by
  decide
/-- A directory entry of 64 words at LIT[1000] leaves LIT: ERR_TABLE, ERR_INFO = 256 + 16. -/
theorem test_build_outside : out (exec .build { State.reset with tdir := State.reset.tdir.set 33 0x103E8 })
    (fun t => (statusWord t.status, t.regs.errInfo)) = some (0x400, 272) := by decide
/-- K3, K4. -/
theorem test_open : out (exec .openCmd { State.reset with
      status.tablesReady := true, regs.descVersion := 7, regs.descLastvalid := 1, regs.descFrames := 2 })
    (fun t => (statusWord t.status, t.latched.layout, t.latched.frames)) = some (6, .b, 2) := by decide
theorem test_open_bad_version : out (exec .openCmd { State.reset with status.tablesReady := true, regs.descVersion := 8 })
    (fun t => (statusWord t.status, t.regs.errInfo)) = some (0x202, 8) := by decide
theorem test_resync : out (exec .resync { State.reset with
      status.tablesReady := true, status.opened := true, status.warm := true, status.frameValid := true, dec.bp := 202 })
    (fun t => (statusWord t.status, t.dec.bp)) = some (6, 202) := by decide
theorem test_resync_closed : out (exec .resync State.reset) (fun t => (statusWord t.status, t.regs.errInfo)) =
    some (0x800, 3) := by decide
/-- K9. -/
theorem test_decode_end : out (exec .decode { State.reset with
      status.opened := true, latched.frames := 2, dec.frameCtr := 2, regs.samplesOut := 9 })
    (fun t => (statusWord t.status, t.regs.samplesOut)) = some (0x14, 0) := by decide
theorem test_decode_start : out (exec .decode { State.reset with status.opened := true, latched.frames := 2 })
    (fun t => (statusWord t.status, t.phase, t.run.point)) = some (5, .header, .fwdJump) := by decide
theorem test_replay_start : out (exec .replay { State.reset with status.opened := true, latched.frames := 2 })
    (fun t => (t.run.replay, t.run.point)) = some (true, .fwdJump) := by decide
/-- K10. -/
theorem test_setpos : out (exec .setpos { State.reset with
      status.opened := true, status.eos := true, latched.frames := 2, regs.posTargetHi := 1, regs.posTargetLo := 202
      regs.frameTarget := 2 })
    (fun t => (t.dec.bp, t.dec.frameCtr, t.status.eos)) = some (0x1000000CA, 2, false) := by decide
theorem test_setpos_beyond : out (exec .setpos { State.reset with
      status.opened := true, latched.frames := 2, regs.frameTarget := 3 })
    (fun t => (t.status.errCmd, t.regs.errInfo, t.dec.bp)) = some (true, 6, 0) := by decide
/-- SEED leaves the rest of the state alone. -/
theorem test_seed : out (exec .seed { State.reset with regs.seed := 1, status.errCmd := true })
    (fun t => (statusWord t.status, t.regs.seed)) = some (0, 1) := by decide

/-- F1. -/
theorem test_fwdjump : out (exec (.fwdjump 42) (at_ .a .fwdJump 0)) (fun t => (t.frame.fwdJump, t.frame.frameStart, t.dec.bp)) =
    some (42, 20, 20) := by decide
/-- F5: field 64 minus DOFF[8] = 63. -/
theorem test_qfix8 (h : dOff 0 = 63) : fixedCoef 0 64 = 1 := by
  unfold fixedCoef
  rw [h]
  decide
/-- F9. -/
theorem test_qfix17 (h : dOff 9 = 32767) : fixedCoef 9 0 = -32767 ∧ fixedCoef 9 65535 = 32768 := by
  unfold fixedCoef
  rw [h]
  decide
/-- F3. -/
theorem test_qskip : out (exec (.qskip .l 3) (at_ .a (.coef .l 3 0) 0)) (fun t => (qOf t .l 3 0, t.dec.bp)) = some (0, 0) := by
  decide
/-- F4: no bit is read. -/
theorem test_qnoise : out (exec (.qnoise .l 3) (at_ .a (.coef .l 3 0) 255)) (fun t => t.dec.bp) = some 0 := by decide
/-- A2, A3. -/
theorem test_resA : out (exec (.resA .l 3 ⟨0x80000000, 4, -1⟩) (at_ .a (.res .l 3) 0))
    (fun t => (resOf t .l 3, resOf t .r 3, t.dec.bp)) = some (255, 0, 4) := by decide
theorem test_resA_out_of_range : out (exec (.resA .r 3 ⟨0x80000000, 4, 18⟩) (at_ .a (.res .r 3) 0))
    (fun t => (statusWord t.status, t.regs.errInfo)) = some (0x1000, 259) := by decide
/-- A5. -/
theorem test_msflagA : out (exec (.msflagA 2 true) (at_ .a (.ms 2) 0)) (fun t => (t.dec.ms[2], t.dec.ms[3], t.dec.bp)) =
    some (true, false, 1) := by decide
/-- A6, A7. -/
theorem test_scfiA : out (exec (.scfiA .r 1 ⟨0xA0000000, 3, 5⟩) (at_ .a (.scfi .r 1) 1))
    (fun t => (bankGet t.frame.scfi .r 1, bankGet t.frame.dflag .r 1, t.dec.bp)) = some (2, true, 3) := by decide
theorem test_scfiA_raw : out (exec (.scfiA .r 1 ⟨0xC0000000, 3, 6⟩) (at_ .a (.scfi .r 1) 1))
    (fun t => (bankGet t.frame.scfi .r 1, bankGet t.frame.dflag .r 1)) = some (3, false) := by decide
/-- A8 under indicator 3: one index for the three segments. -/
theorem test_scfrawA : out (exec (.scfrawA .l 0 0 40) { at_ .a (.scf .l 0 0) 1 with frame.scfi := bankFill 3 })
    (fun t => ((bankGet t.dec.scf .l 0).toList, bankGet t.dec.lastScf .l 0, bankGet t.dec.lastScf .r 0, t.dec.bp)) =
    some ([40, 40, 40], 40, 0, 6) := by decide
/-- A10: reference 0, delta -6 wraps to 250; indicator 1 keeps LastSCF until segment 1. -/
theorem test_dscfA : out (exec (.dscfA .l 0 0 ⟨0x80000000, 4, -6⟩) { at_ .a (.scf .l 0 0) 1 with frame.scfi := bankFill 1 })
    (fun t => ((bankGet t.dec.scf .l 0).toList, bankGet t.dec.lastScf .l 0, t.dec.bp)) = some ([250, 0, 0], 0, 4) := by decide
/-- 43_layout_a.md R216: SCFI = 2, LastSCF = 40, deltas -2 then +1. -/
theorem test_dscfA_pair : ((out (exec (.dscfA .l 0 0 ⟨0xC0000000, 5, -2⟩)
      { at_ .a (.scf .l 0 0) 1 with frame.scfi := bankFill 2, dec.lastScf := bankFill 40 }) id).bind fun t =>
      out (exec (.dscfA .l 0 2 ⟨0xC8000000, 5, 1⟩) t) fun t => ((bankGet t.dec.scf .l 0).toList, bankGet t.dec.lastScf .l 0)) =
    some ([38, 38, 39], 39) := by decide
theorem test_shapeA : out (exec (.shapeA .l 4 true) (at_ .a (.shape .l 4) 3)) (fun t => (t.run.shape, t.dec.bp)) =
    some (true, 1) := by decide
/-- A11 to A17. -/
theorem test_symbols_A : [exec (.q1A .l 0 35 ⟨0x80000000, 2, -1⟩) (at_ .a (.coef .l 0 35) 1),
      exec (.q2A .l 0 35 ⟨0x80000000, 3, -2⟩) (at_ .a (.coef .l 0 35) 2),
      exec (.q3A .l 0 35 ⟨0xE0000000, 4, 2⟩) (at_ .a (.coef .l 0 35) 3),
      exec (.q4A .l 0 35 ⟨0x80000000, 4, -4⟩) (at_ .a (.coef .l 0 35) 4),
      exec (.q5A .l 0 35 ⟨0xF8000000, 5, 7⟩) (at_ .a (.coef .l 0 35) 5),
      exec (.q6A .l 0 35 ⟨0x80000000, 5, -15⟩) (at_ .a (.coef .l 0 35) 6),
      exec (.q7A .l 0 35 ⟨0xFE000000, 7, 31⟩) (at_ .a (.coef .l 0 35) 7)].map
      (fun r => out r fun t => (qOf t .l 0 35, qOf t .l 0 34, t.dec.bp)) =
    [some (-1, 0, 2), some (-2, 0, 3), some (2, 0, 4), some (-4, 0, 4), some (7, 0, 5), some (-15, 0, 5),
      some (31, 0, 7)] := by decide
/-- B1. -/
theorem test_res0B : out (exec (.res0B .l 15) (at_ .b (.res .l 0) 3)) (fun t => (resOf t .l 0, resOf t .l 1, t.dec.bp)) =
    some (15, 3, 4) := by decide
/-- B2. -/
theorem test_resdB : out (exec (.resdB .l 1 ⟨0x80000000, 2, -1⟩) (at_ .b (.res .l 1) 0)) (fun t => (resOf t .l 1, t.dec.bp)) =
    some (255, 2) := by decide
theorem test_resdB_out_of_range : out (exec (.resdB .l 1 ⟨0x80000000, 2, -1⟩) (at_ .b (.res .l 1) 255))
    (fun t => (statusWord t.status, t.regs.errInfo)) = some (0x1000, 1) := by decide
/-- B3. -/
theorem test_resdB_escape : out (exec (.resdB .l 1 ⟨0xE0000000, 4, 4⟩) (at_ .b (.res .l 1) 7))
    (fun t => (resOf t .l 1, t.dec.bp, (sequenceAfter (.resdB .l 1 ⟨0xE0000000, 4, 4⟩) t).run.point)) =
    some (7, 4, .resX .l 1) := by decide
theorem test_resxB : out (exec (.resxB .l 1 3) (at_ .b (.resX .l 1) 7)) (fun t => (resOf t .l 1, resOf t .r 1, t.dec.bp)) =
    some (3, 7, 4) := by decide
/-- B4. -/
theorem test_msflagB : out (exec (.msflagB 31 true) (at_ .b (.ms 31) 1)) (fun t => (t.dec.ms[31], t.dec.ms[30], t.dec.bp)) =
    some (true, false, 1) := by decide
theorem test_msflagB_absent : (sequenceAfter (.resxB .r 3 0) { at_ .b (.resX .r 3) 0 with
      latched.msEnable := true, dec.ms := Vector.replicate 32 true }).dec.ms[3] = false := by decide
/-- B5. -/
theorem test_scfiB : out (exec (.scfiB .l 0 ⟨0x40000000, 2, 1⟩) (at_ .b (.scfi .l 0) 1))
    (fun t => (bankGet t.frame.scfi .l 0, bankGet t.frame.scfi .r 0, t.dec.bp)) = some (1, 0, 2) := by decide
/-- B8: reference 3, delta -7 wraps to 252. -/
theorem test_dscfB : out (exec (.dscfB .l 0 0 ⟨0, 4, -7⟩) { at_ .b (.scf .l 0 0) 1 with
      frame.scfi := bankFill 3, dec.lastScf := bankFill 3 })
    (fun t => ((bankGet t.dec.scf .l 0).toList, bankGet t.dec.lastScf .l 0)) = some ([252, 252, 252], 252) := by decide
/-- B7. -/
theorem test_scfxB : out (exec (.scfxB .r 0 2 40) { at_ .b (.scfX .r 0 2) 1 with frame.scfi := bankFill 2 })
    (fun t => ((bankGet t.dec.scf .r 0).toList, bankGet t.dec.lastScf .r 0, t.dec.bp)) = some ([0, 0, 40], 40, 6) := by decide
/-- B9. -/
theorem test_shapeB : out (exec (.shapeB .r 0 true) (at_ .b (.shape .r 0) 7)) (fun t => (t.run.shape, t.dec.bp)) =
    some (true, 1) := by decide
/-- B10: symbol 11 is (+1, -1, 0). -/
theorem test_q1B : out (exec (.q1B .l 0 11 ⟨0x80000000, 5, 11⟩) (at_ .b (.coef .l 0 33) 1))
    (fun t => (qOf t .l 0 33, qOf t .l 0 34, qOf t .l 0 35, t.dec.bp)) = some (1, -1, 0, 5) := by decide
/-- B13: symbol 15 is (-2, +1). -/
theorem test_q2B : out (exec (.q2B .l 0 17 ⟨0xB0000000, 5, 15⟩) (at_ .b (.coef .l 0 34) 2))
    (fun t => (qOf t .l 0 33, qOf t .l 0 34, qOf t .l 0 35, t.dec.bp)) = some (0, -2, 1, 5) := by decide
/-- B15 to B19. -/
theorem test_symbols_B : [exec (.q3B .r 0 0 ⟨0, 2, -3⟩) (at_ .b (.coef .r 0 0) 3),
      exec (.q4B .r 0 0 ⟨0xF0000000, 4, 4⟩) (at_ .b (.coef .r 0 0) 4),
      exec (.q5B .r 0 0 ⟨0, 3, -7⟩) (at_ .b (.coef .r 0 0) 5),
      exec (.q6B .r 0 0 ⟨0xF8000000, 5, 15⟩) (at_ .b (.coef .r 0 0) 6),
      exec (.q7B .r 0 0 ⟨0, 5, -31⟩) (at_ .b (.coef .r 0 0) 7)].map (fun r => out r fun t => (qOf t .r 0 0, qOf t .r 0 1, t.dec.bp)) =
    [some (-3, 0, 2), some (4, 0, 4), some (-7, 0, 3), some (15, 0, 5), some (-31, 0, 5)] := by decide

/-! The step. -/

/-- The host's question: a row's word as the first instruction after reset. -/
theorem test_step_command : out (step (State.reset.withFetchWord 32 4)) (fun t => (statusWord t.status, t.regs.errInfo)) =
    some (0x800, 4) := by decide
theorem test_step_field : out (step (State.reset.withFetchWord 24 42)) (fun t => (t.frame.fwdJump, t.dec.bp, t.run.point)) =
    some (42, 20, .res .l 0) := by decide
/-- BIT7: a read past the last word raises ReadError at its position. -/
theorem test_step_read_error : out (step { at_ .a (.ms 2) 0 with latched.streamLen := 4, dec.bp := 32 })
    (fun t => (statusWord t.status, t.regs.errInfo)) = some (0x100, 32) := by decide
/-- H8, at a parse: an absent table ends the command and closes the stream. -/
theorem test_step_table_invalid : out (step (at_ .b (.res .r 1) 0)) (fun t => (statusWord t.status, t.regs.errInfo)) =
    some (0x400, 256) := by decide
/-- 10_state.md R69: STATUS, PHASE and TDIR after reset, as the host reads them. -/
theorem test_reset_registers : [0x04, 0x08, 0x0C, 0x38, 0x4C, 0x60, 0x100, 0x284].map (fun a => regRead State.reset a) =
    List.replicate 8 0 := by decide
/-- 30_encoding.md R104: entry word 1 of HDR_B symbol 0 (95_test_vectors.md 1.4). -/
theorem test_tab_entry : out (step { State.reset with
      tab := ramWrite State.reset.tab 16 (entryBytes ⟨0xFF800000, 9, -5⟩), host := [⟨false, .read .tab 20 32⟩] })
    (fun t => t.hostData) = some [0xFFFB0009] := by decide
/-- Accesses that stop: past the end of LIT, a halfword, and TDIR while BUSY = 1. -/
theorem test_host_stops : hostStep (.read .lit 4096 32) State.reset = .fault .noSuchAddress ∧
    hostStep (.read .reg 4 16) State.reset = .refused .hostAccessWidth ∧
    hostStep (.write .reg 0x100 32 0) (at_ .a .fwdJump 0) = .refused .hostAccessWhileBusy := by
  refine ⟨rfl, rfl, rfl⟩
/-- 70_reset_and_hazards.md R374: a change under an open stream marks the bits unspecified; none does with no stream open. -/
theorem test_stream_change : out (hostStep (.putStream 4 7) (at_ .a .idle 0)) (fun t => (t.streamDirty, byteAt t .stream 4)) =
      some (some 0, 7) ∧
    out (hostStep (.putStream 4 7) State.reset) (fun t => (t.streamDirty, byteAt t .stream 4)) = some (none, 7) := by decide
/-- R374, 20_memory.md R84: SETPOS discards what was buffered. -/
theorem test_stream_change_setpos : out (exec .setpos { at_ .a .idle 0 with streamDirty := some 0 }) (fun t => t.streamDirty) =
    some none := by decide

/-- A state with no act of the host to come, and one whose next act waits for BUSY = 0: none is due. -/
theorem noActDue_nil (s : State) (h : s.host = []) : noActDue s := fun _ _ e => by simp [h] at e

theorem noActDue_waiting (s : State) (a : HostAct) (rest : List HostOp) (h : s.host = ⟨false, a⟩ :: rest) : noActDue s := by
  intro op r e
  rw [h] at e
  cases e
  rfl

/-! Witnesses: for every statement with hypotheses a concrete state and operands that meet them together, each clause at
a boundary value. -/

/-- Two symbols, codes 0 and 1 of one bit, in the table at place 3 (Q_A[0][1]). -/
def oneTable : State :=
  { State.reset with
    tdir := State.reset.tdir.set 3 0x00000800, lit := ramWrite State.reset.lit 0 (wordBytes 0x10000 ++ wordBytes 0x10001) }

/-- The entry BUILD writes for symbol 1 comes first. -/
theorem test_build_table : out (exec .build oneTable) (fun t => (t.tcls[3], tabEntry t.tab 0, tabEntry t.tab 1)) =
    some (5, ⟨0x80000000, 1, 1⟩, ⟨0, 1, 0⟩) := by decide

theorem oneTable_present : ∀ i : Fin 34, present oneTable i → i = 3 := by decide

theorem oneTable_wf : LiteralsWellFormed oneTable := by
  intro i hi
  obtain rfl := oneTable_present i hi
  exact ⟨by decide, by decide, by decide, fun i' h _ => by rw [oneTable_present i' h], by decide, by decide, by decide, by decide,
    by decide, by decide⟩

/-- For BuildChecks and BuildTables: a present table and an absent one. -/
theorem witness_BuildChecks : LiteralsWellFormed oneTable ∧ present oneTable 3 ∧ ¬ present oneTable 0 :=
  ⟨oneTable_wf, by decide, by decide⟩

/-- The last table of the directory is the first that fails: 64 words at LIT[1000] end beyond LIT. -/
theorem witness_BuildChecks_bad : ∃ s i, present s i ∧ ¬ TableWellFormed s i ∧ (∀ i' < i, present s i' → TableWellFormed s i') ∧
    i.val = 33 := by
  refine ⟨{ State.reset with tdir := State.reset.tdir.set 33 0x103E8 }, 33, by decide,
    fun h => absurd h.inLit (by decide), fun i' h hp => ?_, rfl⟩
  exact absurd hp (by revert i'; decide)

/-- COUNT = 17 of HDR_A is one too many. -/
theorem witness_BuildChecks_hdrA : ∃ s, present s 0 ∧ ¬ TableWellFormed s 0 :=
  ⟨{ State.reset with tdir := State.reset.tdir.set 0 0x4400 }, by decide, fun h => absurd (h.hdrA rfl) (by decide)⟩

theorem witness_BuildTwice : ∃ t u, exec .build oneTable = .next t ∧ t.status.tablesReady = true ∧ exec .build t = .next u :=
  ⟨_, _, rfl, by decide, rfl⟩

theorem witness_CommandIssue : commandAllowed State.reset 7 ∧ ¬ commandAllowed State.reset 8 ∧ ¬ commandAllowed State.reset 2 ∧
    State.reset.status.busy = false ∧ (at_ .a .fwdJump 0).status.busy = true := by
  refine ⟨by trivial, by simp [commandAllowed], by simp [commandAllowed, State.reset], rfl, rfl⟩

theorem witness_SetposResult : ∃ s : State, s.status.opened = true ∧ s.regs.frameTarget.toNat = s.latched.frames.toNat ∧
    commandAllowed s 6 :=
  ⟨{ State.reset with status.opened := true, latched.frames := 2, regs.frameTarget := 2 }, rfl, rfl, ⟨rfl, by decide⟩⟩

theorem witness_SetposResult_refused : ∃ s : State, s.status.opened = true ∧ s.latched.frames.toNat < s.regs.frameTarget.toNat :=
  ⟨{ State.reset with status.opened := true, latched.frames := 2, regs.frameTarget := 3 }, rfl, by decide⟩

/-- A descriptor OPEN accepts, with the largest DESC_LASTVALID and no byte of stream. -/
def goodDesc : State :=
  { State.reset with
    status.tablesReady := true, regs.descVersion := 7, regs.descLastvalid := 1152, regs.descHdroff := 4, regs.streamLen := 4 }

theorem witness_OpenSucceeds : goodDesc.status.tablesReady = true ∧ DescriptorLegal goodDesc.regs ∧
    DescriptorLegal { goodDesc.regs with descVersion := 4, descLastvalid := 1 } := by decide

/-- A tag with no layout, and one descriptor for each of the three offsets at the first value out of range. -/
theorem witness_OpenRaises : goodDesc.status.tablesReady = true ∧ goodDesc.regs.descVersion = 7 ∧
    (8 : BitVec 8) ≠ 4 ∧ (8 : BitVec 8) ≠ 5 ∧ (8 : BitVec 8) ≠ 6 ∧ (8 : BitVec 8) ≠ 7 ∧
    ¬ DescriptorLegal { goodDesc.regs with descLastvalid := 0 } ∧ ¬ DescriptorLegal { goodDesc.regs with descLastvalid := 1153 } ∧
    ¬ DescriptorLegal { goodDesc.regs with descHdroff := 3 } ∧ ¬ DescriptorLegal { goodDesc.regs with streamLen := 3 } ∧
    ¬ DescriptorLegal { goodDesc.regs with streamLen := 7 } := by decide

theorem witness_ResyncResult : (at_ .a .idle 0).status.opened = true ∧ State.reset.status.opened = false := by decide

theorem witness_DecodeReplayStart : ∃ s : State, s.status.opened = true ∧ s.dec.frameCtr.toNat < s.latched.frames.toNat :=
  ⟨{ State.reset with status.opened := true, latched.frames := 1 }, by decide⟩

theorem witness_EndOfStream : ∃ s : State, s.status.opened = true ∧ s.latched.frames.toNat ≤ s.dec.frameCtr.toNat :=
  ⟨{ State.reset with status.opened := true, latched.frames := 1, dec.frameCtr := 1 }, by decide⟩

theorem witness_EndOfStream_open : ∃ t, goodDesc.status.tablesReady = true ∧ exec .openCmd goodDesc = .next t := ⟨_, rfl, rfl⟩

theorem witness_EndOfStream_setpos : ∃ s t, commandAllowed s 6 ∧ exec .setpos s = .next t :=
  ⟨{ State.reset with status.opened := true }, _, ⟨rfl, by decide⟩, rfl⟩

theorem witness_FwdjumpResult : (at_ .a .fwdJump 0).run.point = .fwdJump ∧ (at_ .a .extraJump 0).run.point = .extraJump ∧
    (at_ .a .fwdJump 0).run.extra = false := ⟨rfl, rfl, rfl⟩

/-- For HeaderOrder, IndicatorOrder, ScalefactorOrder and SamplesOrder: in either layout a state at a point p, with either
DFLAG. -/
theorem witness_fieldPoints (l : Layout) (p : Point) (b : Bool) : ∃ s : State, s.run.point = p ∧ s.latched.layout = l ∧
    bankGet s.frame.dflag .l 0 = b :=
  ⟨{ at_ l p 1 with frame.dflag := bankFill b }, rfl, rfl, bankGet_bankFill b .l 0⟩

theorem witness_QfixResult (i : Fin 10) : 0 < 2 ^ resBits i ∧ 2 ^ resBits i - 1 < 2 ^ resBits i := by
  have := Nat.two_pow_pos (resBits i)
  omega

theorem witness_ResAResult : -1 ≤ (⟨0, 1, -1⟩ : Entry).value.toInt ∧ (⟨0, 1, 17⟩ : Entry).value.toInt ≤ 17 := by decide

theorem witness_ResolutionOutOfRange : (⟨0, 1, -2⟩ : Entry).value.toInt < -1 ∧ 17 < (⟨0, 1, 18⟩ : Entry).value.toInt := by decide

/-- The delta clause at its first and its last subband, above and below the domain. -/
theorem witness_ResolutionOutOfRange_delta :
    1 ≤ (1 : Subband).val ∧ (⟨0, 1, 1⟩ : Entry).value.toInt ≠ 4 ∧
    17 < (resOf (at_ .b (.res .l 1) 17) .l (prevBand 1)).toInt + (⟨0, 1, 1⟩ : Entry).value.toInt ∧
    (31 : Subband).val = 31 ∧ (⟨0, 1, -1⟩ : Entry).value.toInt ≠ 4 ∧
    (resOf (at_ .b (.res .r 31) 255) .r (prevBand 31)).toInt + (⟨0, 1, -1⟩ : Entry).value.toInt < -1 := by decide

theorem witness_ScfiResult : 0 ≤ (⟨0, 1, 0⟩ : Entry).value.toInt ∧ (⟨0, 1, 7⟩ : Entry).value.toInt ≤ 7 ∧
    (⟨0, 1, 3⟩ : Entry).value.toInt ≤ 3 := by decide

/-- For ScfRawResult, ScfDeltaResult, ScfSetRaw and ScalefactorOrder: each indicator with the last segment it transmits. -/
theorem witness_ScfRawResult (i : Fin 4) : ∃ g : Segment, transmitted i.val g ∧ lastSent i.val g ∧
    (bankGet ({ at_ .a (.scf .l 0 g) 1 with frame.scfi := bankFill (.ofNat 2 i.val) } : State).frame.scfi .l 0).toNat = i.val := by
  fin_cases i
  · exact ⟨2, by decide⟩
  · exact ⟨1, by decide⟩
  · exact ⟨2, by decide⟩
  · exact ⟨0, by decide⟩

theorem witness_EscapeAnnouncesRaw : 1 ≤ (1 : Subband).val ∧ (⟨0, 1, 4⟩ : Entry).value.toInt = 4 ∧
    (⟨0, 1, 8⟩ : Entry).value.toInt = 8 ∧ (⟨0, 1, 7⟩ : Entry).value.toInt ≠ 8 := by decide

theorem witness_ScfSetDifferential : (bankGet (at_ .a (.scf .l 0 0) 1).frame.scfi .l 0).toNat = 0 := by decide

theorem witness_ShapeResult : (resOf (at_ .b (.shape .l 0) 7) .l 0).toInt = 7 ∧ (resOf (at_ .b (.shape .l 0) 1) .l 0).toInt = 1 := by
  decide

theorem witness_BundleResult : (⟨0, 1, 0⟩ : Entry).value.toInt = 0 ∧ (⟨0, 1, 26⟩ : Entry).value.toInt = 26 ∧
    (⟨0, 1, 24⟩ : Entry).value.toInt = 24 := by decide

/-- The raw resolutions at the first and the last subband. -/
theorem witness_ResolutionB_raw : 1 ≤ (1 : Subband).val ∧ 1 ≤ (31 : Subband).val := by decide

/-- The delta at the last subband and the top of the domain, at the first subband and its bottom. -/
theorem witness_ResolutionB_delta : ∃ (s u : State) (e f : Entry),
    (30 : Subband).val + 1 = (31 : Subband).val ∧ e.value.toInt ≠ 4 ∧ (resOf s .l 30).toInt + e.value.toInt = 17 ∧
    (0 : Subband).val + 1 = (1 : Subband).val ∧ f.value.toInt ≠ 4 ∧ (resOf u .r 0).toInt + f.value.toInt = -1 :=
  ⟨at_ .b (.res .l 31) 12, at_ .b (.res .r 1) 3, ⟨0, 1, 5⟩, ⟨0, 1, -4⟩, by decide⟩

/-- The resolutions at the ends of the four cases, in both layouts. -/
theorem witness_ReadCoefsDispatch : [0, 255, 1, 7, 8, 17].map (fun r => (resOf (at_ .b (.coef .l 0 35) r) .l 0).toInt) =
    [0, -1, 1, 7, 8, 17] ∧ (at_ .b (.coef .l 0 35) 7).run.point = .coef .l 0 35 ∧
    (at_ .b (.coef .l 0 35) 7).latched.layout = .b ∧ (at_ .a (.coef .l 0 35) 7).latched.layout = .a := by decide

/-- A flag follows; subband 30 ends without one and 31 comes next. -/
theorem witness_HeaderOrder : ∃ (s t : State), s.latched.msEnable = true ∧ resOf s .l 30 ≠ 0 ∧
    completesResB .r 30 (.resdB .r 30 ⟨0, 1, 0⟩) ∧ endsBand t 30 (.resxB .r 30 0) { t with dec.ms := t.dec.ms.set 30 false } ∧
    (31 : Subband).val = (30 : Subband).val + 1 ∧ (31 : Subband).val ≤ t.latched.maxBand.toNat :=
  ⟨{ at_ .b (.res .r 30) 1 with latched.msEnable := true }, at_ .b (.resX .r 30) 0, rfl, by decide,
    .inr (.inl ⟨_, by decide, rfl⟩), .inr ⟨rfl, .inr (.inr ⟨_, rfl⟩), .inl rfl⟩, rfl, by decide⟩

/-- The header ends at subband MaxBand = 0 with one coded subband-channel, and at MaxBand = 31 with none. -/
theorem witness_HeaderOrder_end : ∃ s t : State,
    ((0 : Subband).val = s.latched.maxBand.toNat ∧ endsBand s 0 (.resA .r 0 ⟨0, 1, 1⟩) s ∧ firstCoded s 0 .r 0) ∧
    ((31 : Subband).val = t.latched.maxBand.toNat ∧ endsBand t 31 (.msflagB 31 true) t ∧ noneCoded t 0) := by
  refine ⟨{ at_ .a (.res .r 0) 0 with latched.maxBand := 0, dec.res := ⟨Vector.replicate 32 0, Vector.replicate 32 1⟩ },
    at_ .b (.ms 31) 0, ⟨rfl, .inl ⟨rfl, .inl ⟨_, rfl⟩⟩, ⟨by decide, by decide, by decide⟩, fun d m h => ?_⟩,
    rfl, .inl ⟨rfl, .inr ⟨_, rfl⟩⟩, fun d m h => ?_⟩
  · obtain ⟨_, h, -⟩ := h
    revert h
    cases d <;> revert m <;> decide
  · obtain ⟨_, h, -⟩ := h
    revert h
    cases d <;> revert m <;> decide

/-- For samplesFrom of HeaderOrder, IndicatorOrder, ScalefactorOrder and SamplesOrder, the first field of the samples: a
selector in layout B, none in layout A and none at resolution 8. -/
theorem witness_samplesFrom : ∃ s t u : State, (s.latched.layout = .b ∧ (resOf s .l 0).toInt = 7) ∧ t.latched.layout = .a ∧
    u.latched.layout = .b ∧ (resOf u .l 0).toInt = 8 :=
  ⟨at_ .b (.ms 0) 7, at_ .a (.ms 0) 7, at_ .b (.ms 0) 8, by decide⟩

theorem witness_MaxUsedComputed : (31 : Subband).val = (at_ .b (.res .r 31) 0).latched.maxBand.toNat ∧
    endsBand (at_ .b (.res .r 31) 0) 31 (.resdB .r 31 ⟨0, 1, 0⟩)
      { at_ .b (.res .r 31) 0 with dec.ms := (at_ .b (.res .r 31) 0).dec.ms.set 31 false } :=
  ⟨rfl, .inr ⟨rfl, .inr (.inl ⟨_, by decide, rfl⟩), .inl rfl⟩⟩

/-- For IndicatorOrder and ScalefactorOrder. The only two coded subband-channels: R of subband 0 follows L, and after it come
the scalefactors of L; in the second state none is coded. -/
theorem witness_IndicatorOrder : ∃ s t : State, firstCoded s (chanOrder .l 0 + 1) .r 0 ∧ noneCoded s (chanOrder .r 0 + 1) ∧
    firstCoded s 0 .l 0 ∧ noneCoded t 0 ∧ noneCoded t (chanOrder .r 0 + 1) := by
  refine ⟨at_ .a (.scfi .l 0) 1, at_ .a (.scfi .l 0) 0, ⟨⟨by decide, by decide, by decide⟩, fun d m h => ?_⟩,
    fun d m h => ?_, ⟨⟨by decide, by decide, by decide⟩, fun d m h => ?_⟩, fun d m h => ?_, fun d m h => ?_⟩ <;>
    obtain ⟨h1, hr, h2⟩ := h <;> revert h1 hr h2 <;> cases d <;> revert m <;> decide

/-- Each indicator with a transmitted segment and the next one, where there is one. -/
theorem witness_ScalefactorOrder : (transmitted 0 0 ∧ transmitted 0 1 ∧ ∀ m : Segment, transmitted 0 m → 0 < m → 1 ≤ m) ∧
    (transmitted 1 0 ∧ transmitted 1 1 ∧ ∀ m : Segment, transmitted 1 m → 0 < m → 1 ≤ m) ∧
    (transmitted 2 0 ∧ transmitted 2 2 ∧ ∀ m : Segment, transmitted 2 m → 0 < m → 2 ≤ m) := by
  refine ⟨⟨by decide, by decide, fun m _ h => ?_⟩, ⟨by decide, by decide, fun m _ h => ?_⟩, by decide, by decide,
    fun m h _ => ?_⟩ <;> revert h <;> revert m <;> decide

/-- One frame header of zeros in layout B with MaxBand = 0, after a frame that left resolution r in subband 0 of L. -/
def zeroHeader (r : BitVec 8) : State :=
  { at_ .b .fwdJump 0 with
    latched.maxBand := 0, latched.streamLen := 4, stream.cells := [(0, 0), (1, 0), (2, 0), (3, 0)]
    dec.res := bankSet (bankFill 0) .l 0 r }

/-- The header ends with the third field. -/
theorem witness_HeaderForgetsEarlierFrames : ∃ t, sameFrame (zeroHeader 0) (zeroHeader 5) ∧
    onlyHeader (zeroHeader 0) (zeroHeader 5) ∧
    (Host.Core.run Sys2Proof.core 3 (zeroHeader 0) : Host.Outcome State Fault Refusal) = .next t ∧ t.status.busy = true ∧
    t.phase = .samples ∧
    ∀ j < 3, ∃ m : State, (Host.Core.run Sys2Proof.core j (zeroHeader 0) : Host.Outcome State Fault Refusal) = .next m ∧
      m.status.busy = true ∧ m.phase = .header := by
  refine ⟨_, ⟨?_, rfl, rfl, rfl, rfl, rfl, rfl, rfl, rfl, fun _ => rfl⟩, ⟨rfl, fun n h => ⟨fun c => ?_, rfl⟩⟩, rfl, rfl, rfl,
    fun j hj => ?_⟩
  · rintro x (rfl | rfl) <;> exact ⟨rfl, noActDue_nil _ rfl, rfl, rfl, rfl⟩
  · revert h
    cases c <;> revert n <;> decide
  · match j, hj with
    | 0, _ => exact ⟨_, rfl, rfl, rfl⟩
    | 1, _ => exact ⟨_, rfl, rfl, rfl⟩
    | 2, _ => exact ⟨_, rfl, rfl, rfl⟩

/-- Every way to end a subband-channel, and the end of the parse at MaxUsed = 0. -/
theorem witness_FrameValidation : (0 : Subband).val = (at_ .a (.coef .r 0 0) 0).dec.maxUsed.toNat ∧ endsChannel .r 0 (.qskip .r 0) ∧
    endsChannel .r 0 (.qnoise .r 0) ∧ endsChannel .r 0 (.q1A .r 0 35 ⟨0, 1, 0⟩) ∧ endsChannel .r 0 (.q7B .r 0 35 ⟨0, 1, 0⟩) ∧
    endsChannel .r 0 (.q1B .r 0 11 ⟨0, 1, 0⟩) ∧ endsChannel .r 0 (.q2B .r 0 17 ⟨0, 1, 0⟩) ∧ endsChannel .r 0 (.qfix17 .r 0 35 0) :=
  ⟨rfl, .inl rfl, .inr (.inl rfl), .inr (.inr (.inl ⟨0, _, rfl⟩)), .inr (.inr (.inr (.inl ⟨4, _, rfl⟩))),
    .inr (.inr (.inr (.inr (.inl ⟨_, rfl⟩)))), .inr (.inr (.inr (.inr (.inr (.inl ⟨_, rfl⟩))))),
    .inr (.inr (.inr (.inr (.inr (.inr ⟨9, _, rfl⟩)))))⟩

theorem witness_SamplesOrder : beforeCoef .l 0 35 (.q1A .l 0 34 ⟨0, 1, 0⟩) ∧ beforeCoef .l 0 33 (.q1B .l 0 10 ⟨0, 1, 0⟩) ∧
    beforeCoef .l 0 34 (.q2B .l 0 16 ⟨0, 1, 0⟩) ∧ endsChannel .l 0 (.qskip .l 0) ∧
    ∃ s : State, (31 : Subband).val = (30 : Subband).val + 1 ∧ (31 : Subband).val ≤ s.dec.maxUsed.toNat :=
  ⟨.inl ⟨34, rfl, .inl ⟨0, _, rfl⟩⟩, .inr (.inl ⟨10, _, rfl, rfl⟩), .inr (.inr ⟨16, _, rfl, rfl⟩), .inl rfl,
    { at_ .a (.coef .r 30 0) 0 with dec.maxUsed := 31 }, rfl, by decide⟩

theorem witness_RequantizeResult : ∃ s : State, noActDue s ∧ s.status.busy = true ∧ s.run.point = .requant ∧
    s.run.extra = false ∧ s.dec.ms[0] = true ∧ resOf s .l 0 ≠ 0 :=
  ⟨{ at_ .a .requant 1 with dec.ms := Vector.replicate 32 true, host := [⟨false, .reset⟩] }, noActDue_waiting _ _ _ rfl,
    by decide⟩

theorem witness_RequantizeResult_left : ∃ s : State, s.run.point = .requant ∧ s.run.extra = false ∧ s.dec.ms[0] = true ∧
    resOf s .l 0 ≠ 0 ∧ resOf s .r 0 = 0 ∧ resOf s .l 1 = 0 ∧ resOf s .r 1 ≠ 0 :=
  ⟨{ at_ .a .requant 1 with
    dec.ms := Vector.replicate 32 true
    dec.res := ⟨(Vector.replicate 32 0).set 0 1, (Vector.replicate 32 1).set 0 0⟩ }, by decide⟩

/-- The last frame with the largest LastValid that needs no extra pass. -/
theorem witness_DecodeEmits : ∃ s : State, noActDue s ∧ s.status.busy = true ∧ s.run.point = .synth ∧ s.run.extra = false ∧
    s.run.replay = false ∧ s.dec.frameCtr = s.latched.frames ∧ s.latched.lastValid.toNat + 481 = 1152 :=
  ⟨{ at_ .a .synth 0 with latched.lastValid := 671 }, noActDue_nil _ rfl, by decide⟩

/-- The largest output: LastValid = 1152 after an extra pass. -/
theorem witness_DecodeEmits_extra : ∃ s : State, noActDue s ∧ s.status.busy = true ∧ s.run.point = .synth ∧
    s.run.extra = true ∧ (∀ c, (chanGet s.run.raw c).length = 1152) ∧ s.run.hi = 1633 ∧ s.run.hi ≤ 2304 :=
  ⟨{ at_ .a .synth 0 with
      run := { (at_ .a .synth 0).run with
        extra := true, lo := 0, hi := 1633, raw := ⟨List.replicate 1152 Config.zero, List.replicate 1152 Config.zero⟩ } },
    noActDue_nil _ rfl, rfl, rfl, rfl, fun c => by cases c <;> exact List.length_replicate, rfl, by decide⟩

theorem witness_ExtraPass : ∀ b : Bool, ∃ s : State, noActDue s ∧ s.status.busy = true ∧ s.run.point = .synth ∧
    s.run.extra = false ∧ s.run.replay = false ∧ s.phase = .synth ∧ s.dec.frameCtr = s.latched.frames ∧
    s.latched.lastValid.toNat = 672 ∧ s.latched.gapless = b :=
  fun b => ⟨{ at_ .a .synth 0 with phase := .synth, latched.lastValid := 672, latched.gapless := b }, noActDue_nil _ rfl,
    by cases b <;> decide⟩

theorem witness_ExtraPass_parse : ∃ s : State, noActDue s ∧ s.status.busy = true ∧ s.run.point = .requant ∧ s.run.extra = true :=
  ⟨{ at_ .a .requant 0 with run.extra := true }, noActDue_nil _ rfl, by decide⟩

theorem witness_ReplayDiscards : ∃ s : State, noActDue s ∧ s.status.busy = true ∧ s.run.point = .synth ∧
    s.run.extra = false ∧ s.run.replay = true := ⟨{ at_ .a .synth 0 with run.replay := true }, noActDue_nil _ rfl, by decide⟩

theorem witness_StepRunsDecoded : ∃ s : State, s.host = [⟨true, .write .reg 0 32 7⟩] ∧ s.status.busy = false ∧
    decodeCmd 7 = .ok .seed := ⟨{ State.reset with host := [⟨true, .write .reg 0 32 7⟩] }, by decide⟩

/-- One readable word of a stream, its last bit the last bit of the stream. -/
def oneWord (p : Point) : State :=
  { at_ .a p 1 with latched.streamLen := 4, stream := ramWrite State.reset.stream 0 (wordBytes 0x00000001) }

theorem witness_StepRunsDecoded_field : ∃ (f : Field) (t : State), noActDue (oneWord (.ms 2)) ∧
    (oneWord (.ms 2)).status.busy = true ∧ fieldAt (oneWord (.ms 2)) = some f ∧
    decodeField f (builtTable (oneWord (.ms 2))) (upcoming (oneWord (.ms 2)) 20) = .ok (.msflagA 2 false) ∧
    exec (.msflagA 2 false) (oneWord (.ms 2)) = .next t := ⟨_, _, noActDue_nil _ rfl, rfl, rfl, rfl, rfl⟩

/-- Twenty bits of the last word of a stream. -/
theorem witness_RawFieldValue : ∃ s : State, s.streamDirty = none ∧ ∀ i < 20, wordFails s ((s.dec.bp.toNat + i) / 32) = false :=
  ⟨{ oneWord .fwdJump with dec.bp := 12 }, by decide⟩

/-- The last readable bit of a stream, and the last word of each window. -/
theorem witness_ByteOrder : (oneWord .idle).streamDirty = none ∧ wordFails (oneWord .idle) (31 / 32) = false ∧
    streamBit (oneWord .idle) 31 = some true ∧ State.reset.status.busy = false ∧ 4092 < 4096 ∧ 8188 < 8192 ∧ 18428 < 18432 := by
  decide

/-- A change of the last byte of STREAM, with and without an open stream, and a readable word after it. -/
theorem witness_StreamChange : 2 ^ 32 - 1 < 2 ^ 32 ∧ (oneWord .idle).status.opened = true ∧ State.reset.status.opened = false ∧
    wordFails { oneWord .idle with streamDirty := some 0 } (31 / 32) = false := by decide

theorem witness_StreamChange_discard : ∃ t u, exec .openCmd goodDesc = .next t ∧ t.status.opened = true ∧
    goodDesc.status.tablesReady = true ∧ commandAllowed (at_ .a .idle 0) 6 ∧ exec .setpos (at_ .a .idle 0) = .next u :=
  ⟨_, _, rfl, rfl, rfl, ⟨rfl, by decide⟩, rfl⟩

/-- A stream at its last bit, the table of two one-bit codewords: the bit is the codeword of symbol 1. -/
def lastBit : State :=
  { oneWord (.coef .l 0 0) with
    dec.bp := 31, tdir := State.reset.tdir.set 3 0x00000800, tcls := State.reset.tcls.set 3 5
    tab := ramWrite State.reset.tab 0 (entryBytes ⟨0x80000000, 1, 1⟩ ++ entryBytes ⟨0, 1, 0⟩) }

theorem lastBit_table : builtTable lastBit .a 3 = ⟨1, [⟨0x80000000, 1, 1⟩, ⟨0, 1, 0⟩]⟩ := by decide

theorem witness_HufFieldValue : ∃ e, classWidth (builtTable lastBit .a 3).cls = some 5 ∧ e ∈ (builtTable lastBit .a 3).entries ∧
    (∀ x ∈ (builtTable lastBit .a 3).entries, 1 ≤ x.len.toNat ∧ x.len.toNat ≤ 5) ∧
    (∀ x ∈ (builtTable lastBit .a 3).entries, ∀ y ∈ (builtTable lastBit .a 3).entries, x.len.toNat ≤ y.len.toNat →
      y.code >>> (y.len.toNat - x.len.toNat) = x.code → x = y) ∧ e.code < 2 ^ e.len.toNat ∧
    ∀ i < e.len.toNat, streamBit lastBit (lastBit.dec.bp.toNat + i) = some (e.code.testBit (e.len.toNat - 1 - i)) := by
  rw [lastBit_table]
  exact ⟨⟨0x80000000, 1, 1⟩, by decide⟩

/-- A field of two bits of which the second lies past the end, and a codeword that starts there. -/
theorem witness_ReadErrorRaised : ∃ (s : State) (n : Nat) (mk : Nat → Instr), noActDue s ∧ s.status.busy = true ∧
    fieldAt s = some (.raw n mk) ∧ 1 ≤ n ∧ n ≤ 20 ∧ 1 < n ∧
    (∀ j < 1, wordFails s ((s.dec.bp.toNat + j) / 32) = false) ∧ wordFails s ((s.dec.bp.toNat + 1) / 32) = true :=
  ⟨{ oneWord (.scf .l 0 0) with dec.bp := 31 }, _, _, noActDue_nil _ rfl, rfl, rfl, by decide⟩

theorem witness_ReadErrorRaised_huf : ∃ (s : State) (t : Fin 17) (mk : Entry → Instr) (e : Entry), noActDue s ∧
    s.status.busy = true ∧ fieldAt s = some (.huf .a t mk) ∧ classWidth (builtTable s .a t).cls = some 5 ∧
    (builtTable s .a t).entries.find? (entryMatches 5 (peekBits 5 0 (upcoming s 20))) = some e ∧ e.len.toNat ≤ 20 ∧
    0 < e.len.toNat ∧ wordFails s ((s.dec.bp.toNat + 0) / 32) = true :=
  ⟨{ lastBit with dec.bp := 32 }, 3, _, ⟨0, 1, 0⟩, noActDue_nil _ rfl, rfl, rfl, by decide⟩

theorem witness_TableInvalidRaised : ∃ mk, noActDue (oneWord (.res .l 0)) ∧ (oneWord (.res .l 0)).status.busy = true ∧
    fieldAt (oneWord (.res .l 0)) = some (.huf .a 0 mk) ∧ (builtTable (oneWord (.res .l 0)) .a 0).cls = 0 :=
  ⟨_, noActDue_nil _ rfl, rfl, rfl, by decide⟩

/-- A table whose only codeword, 1, does not start the bits 0000... . -/
theorem witness_TableInvalidRaised_pattern : ∃ (s : State) (mk : Entry → Instr), noActDue s ∧ s.status.busy = true ∧
    fieldAt s = some (.huf .a 3 mk) ∧ classWidth (builtTable s .a 3).cls = some 5 ∧
    ∀ e ∈ (builtTable s .a 3).entries, entryMatches 5 (peekBits 5 0 (upcoming s 20)) e = false :=
  ⟨{ lastBit with dec.bp := 0, tdir := State.reset.tdir.set 3 0x00000400 }, _, noActDue_nil _ rfl, rfl, rfl, by decide⟩

theorem witness_WidthIndependence : classWidth 1 = some 5 ∧ classWidth 3 = some 14 ∧
    ∀ e ∈ [(⟨0xF8000000, 5, 7⟩ : Entry), ⟨0, 1, 0⟩], 1 ≤ e.len.toNat ∧ e.len.toNat ≤ 5 ∧ e.len.toNat ≤ 14 := by decide

/-- A codeword of 14 bits, in a table of the SLOW class. -/
theorem witness_CodesAgree : ∃ (e : Entry) (tables : Layout → Fin 17 → Table), (Instr.resA .l 0 e).wf = true ∧
    (Instr.resA .l 0 e).encode = .bits (entryCode e) ∧ e ∈ (tables .a 0).entries ∧ classWidth (tables .a 0).cls = some 14 ∧
    (∀ x ∈ (tables .a 0).entries, x.wf = true ∧ x.len.toNat ≤ 14) ∧
    ∀ x ∈ (tables .a 0).entries, ∀ y ∈ (tables .a 0).entries, x.len.toNat ≤ y.len.toNat →
      y.code >>> (y.len.toNat - x.len.toNat) = x.code → x = y :=
  ⟨⟨0xFFFC0000, 14, 7⟩, fun _ _ => ⟨3, [⟨0xFFFC0000, 14, 7⟩, ⟨0, 1, 0⟩]⟩, by decide⟩

/-- For RegisterAccess and TablesReadOnlyOnceBuilt: an idle block before and after BUILD. -/
theorem witness_RegisterAccess : State.reset.status.busy = false ∧ State.reset.status.tablesReady = false ∧
    goodDesc.status.tablesReady = true ∧ goodDesc.status.busy = false := by decide

/-- The invariants hold of a running command as well, and its step is a next state. -/
theorem running_invariants : MemoryCanonical (oneWord (.ms 2)) ∧ Coherent { oneWord (.ms 2) with latched.msEnable := true } ∧
    FrameCounterBounded (oneWord (.ms 2)) ∧ ResolutionsLegal { oneWord (.ms 2) with latched.msEnable := true } := by
  refine ⟨⟨by decide, by decide, by decide, by decide⟩, ⟨by decide, by decide, by decide, fun _ => ⟨by decide, rfl⟩⟩,
    ⟨by decide, by decide⟩, fun _ c n => ?_⟩
  revert n
  cases c <;> decide

theorem witness_MemoryCanonicalKept : ∃ t, MemoryCanonical (oneWord (.ms 2)) ∧ step (oneWord (.ms 2)) = .next t :=
  ⟨_, running_invariants.1, rfl⟩

/-- For CoherentKept, FrameCounterKept and ResolutionsLegalKept. -/
theorem witness_CoherentKept : ∃ t, Coherent { oneWord (.ms 2) with latched.msEnable := true } ∧
    FrameCounterBounded { oneWord (.ms 2) with latched.msEnable := true } ∧
    ResolutionsLegal { oneWord (.ms 2) with latched.msEnable := true } ∧
    step { oneWord (.ms 2) with latched.msEnable := true } = .next t :=
  ⟨_, running_invariants.2.1, running_invariants.2.2.1, running_invariants.2.2.2, rfl⟩

/-- For BusyStepCompletes and CommandTerminates. -/
theorem witness_BusyStepCompletes : Coherent { oneWord (.ms 2) with latched.msEnable := true } ∧
    ResolutionsLegal { oneWord (.ms 2) with latched.msEnable := true } ∧ noActDue (oneWord (.ms 2)) ∧
    (oneWord (.ms 2)).status.busy = true := ⟨running_invariants.2.1, running_invariants.2.2.2, noActDue_nil _ rfl, rfl⟩

theorem witness_BlockLeavesHostData : ∃ t, noActDue (oneWord (.ms 2)) ∧ (oneWord (.ms 2)).status.busy = true ∧
    step (oneWord (.ms 2)) = .next t := ⟨_, noActDue_nil _ rfl, rfl, rfl⟩

end Sys2Proof.Tests
end

section
/-! SUPPORT. Which field the parser can fetch at a point of the header, what a field writes to Res, and what the sequencer
does to FRAME_CTR: the facts the invariants of an open stream rest on. -/

namespace Sys2Proof.Machine

/-! The instruction a format can make. -/

/-- Some content of the format f makes the instruction i. -/
def Makes (f : Field) (i : Instr) : Prop :=
  match f with
  | .zero j => i = j
  | .raw _ mk => ∃ x, i = mk x
  | .huf _ _ mk => ∃ e, i = mk e

theorem makes_of_fetch {s : State} {f : Field} {i : Instr} (h : fetch s f = .ok i) : Makes f i := by
  unfold fetch decodeField at h
  cases f with
  | zero j => exact (Except.ok.inj h).symm
  | raw n mk =>
    cases hx : decodeRaw n (window s) with
    | ok x => simp only [hx, Except.map] at h; exact ⟨x, (Except.ok.inj h).symm⟩
    | error e => simp [hx, Except.map] at h
  | huf l t mk =>
    cases hx : decodeHuf (builtTable s l t) (window s) with
    | ok x => simp only [hx, Except.map] at h; exact ⟨x, (Except.ok.inj h).symm⟩
    | error e => simp [hx, Except.map] at h

/-- The subband-channel whose resolution the instruction is about, if it is a resolution field. -/
def resPlace : Instr → Option (Chan × Subband)
  | .resA c n _ => some (c, n)
  | .res0B c _ => some (c, 0)
  | .resdB c n _ => some (c, n)
  | .resxB c n _ => some (c, n)
  | _ => none

/-- The points of the sequencer at which an instruction of the frame header can be fetched; nothing is said of the
other instructions. -/
def HeaderPoint (p : Point) (i : Instr) : Prop :=
  (∀ j, i = .fwdjump j → p = .fwdJump ∨ p = .extraJump) ∧
    ∀ c n, resPlace i = some (c, n) → p = .res c n ∨ p = .resX c n

/-- An instruction that is neither a forward jump nor a resolution may stand anywhere. -/
theorem headerPoint_of_other {p : Point} {i : Instr} (hj : ∀ j, i ≠ .fwdjump j) (hr : resPlace i = none) :
    HeaderPoint p i :=
  ⟨fun j h => absurd h (hj j), fun c n h => by rw [hr] at h; cases h⟩

/-- The coefficient fields are no header fields. -/
theorem coefField_headerPoint {s : State} {c : Chan} {n : Subband} {k : Slot} {f : Field} {i : Instr} {p : Point}
    (h : coefField s c n k = some f) (hm : Makes f i) : HeaderPoint p i := by
  unfold coefField at h
  dsimp only at h
  split at h <;> cases h <;> first
    | (subst hm; exact headerPoint_of_other (fun _ => nofun) rfl)
    | (obtain ⟨x, rfl⟩ := hm; exact headerPoint_of_other (fun _ => nofun) rfl)

/-- A header field is fetched at its own point (30_encoding.md R109, R110). -/
theorem fieldAt_headerPoint {s : State} {f : Field} {i : Instr} (h : fieldAt s = some f) (hm : Makes f i) :
    HeaderPoint s.run.point i := by
  unfold fieldAt at h
  cases hp : s.run.point with
  | idle | requant | synth => simp [hp] at h
  | fwdJump | extraJump =>
    simp only [hp, Option.some.injEq] at h
    subst h
    obtain ⟨x, rfl⟩ := hm
    exact ⟨by simp, nofun⟩
  | res c n =>
    cases hl : s.latched.layout <;> simp only [hp, hl] at h
    · cases h
      obtain ⟨e, rfl⟩ := hm
      exact ⟨nofun, by simp [resPlace]⟩
    · split at h <;> cases h <;> obtain ⟨x, rfl⟩ := hm <;> exact ⟨nofun, by simp_all [resPlace]⟩
  | resX c n =>
    simp only [hp, Option.some.injEq] at h
    subst h
    obtain ⟨x, rfl⟩ := hm
    exact ⟨nofun, by simp [resPlace]⟩
  | coef c n k =>
    simp only [hp] at h
    exact coefField_headerPoint h hm
  | scf c n g =>
    cases hl : s.latched.layout <;> simp only [hp, hl] at h
    · split at h <;> cases h <;> obtain ⟨x, rfl⟩ := hm <;> exact headerPoint_of_other (fun _ => nofun) rfl
    · cases h
      obtain ⟨x, rfl⟩ := hm
      exact headerPoint_of_other (fun _ => nofun) rfl
  | ms _ | scfi _ _ | scfX _ _ _ | shape _ _ =>
    cases hl : s.latched.layout <;> simp only [hp, hl, Option.some.injEq] at h <;> subst h <;>
      obtain ⟨x, rfl⟩ := hm <;> exact headerPoint_of_other (fun _ => nofun) rfl

/-! The sequencer past the header field. -/

/-- t stands past the header field, and FRAME_CTR is as in s. -/
def PastHeader (s t : State) : Prop := t.dec.frameCtr = s.dec.frameCtr ∧ t.run.point ≠ .fwdJump

theorem enterSamples_pastHeader (c : Chan) (n : Subband) (s : State) : PastHeader s (enterSamples c n s) := by
  unfold enterSamples
  split <;> exact ⟨rfl, nofun⟩

theorem enterIndicator_pastHeader (k : Nat) (s : State) : PastHeader s (enterIndicator k s) := by
  unfold enterIndicator
  split
  · exact ⟨rfl, nofun⟩
  · split
    · exact ⟨rfl, nofun⟩
    · exact enterSamples_pastHeader _ _ s

theorem enterScalefactor_pastHeader (k : Nat) (s : State) : PastHeader s (enterScalefactor k s) := by
  unfold enterScalefactor
  split
  · exact ⟨rfl, nofun⟩
  · exact enterSamples_pastHeader _ _ s

theorem endBand_pastHeader (n : Subband) (s : State) : PastHeader s (endBand n s) := by
  unfold endBand
  split
  · exact ⟨rfl, nofun⟩
  · exact enterIndicator_pastHeader 0 { s with dec.maxUsed := maxUsedOf s, dec.maxUsedReg := maxUsedOf s }

theorem endChannel_pastHeader (c : Chan) (n : Subband) (s : State) : PastHeader s (endChannel c n s) := by
  unfold endChannel
  split
  · exact enterSamples_pastHeader _ _ s
  · split
    · exact enterSamples_pastHeader _ _ s
    · exact ⟨rfl, nofun⟩

theorem nextCoef_pastHeader (c : Chan) (n : Subband) (k : Nat) (s : State) : PastHeader s (nextCoef c n k s) := by
  unfold nextCoef
  split
  · exact ⟨rfl, nofun⟩
  · exact endChannel_pastHeader _ _ s

theorem nextScf_pastHeader (c : Chan) (n : Subband) (g : Segment) (s : State) : PastHeader s (nextScf c n g s) := by
  unfold nextScf
  split
  · exact ⟨rfl, nofun⟩
  · exact enterScalefactor_pastHeader _ s

theorem afterResA_pastHeader (c : Chan) (n : Subband) (s : State) : PastHeader s (afterResA c n s) := by
  unfold afterResA
  split
  · split <;> exact ⟨rfl, nofun⟩
  · exact endBand_pastHeader n s

theorem afterResB_pastHeader (c : Chan) (n : Subband) (s : State) : PastHeader s (afterResB c n s) := by
  unfold afterResB
  split
  · exact ⟨rfl, nofun⟩
  · split
    · exact ⟨rfl, nofun⟩
    · exact endBand_pastHeader n (setMs s n false)

/-- After every field but the header field FRAME_CTR keeps, and the parser does not come back to the header field. -/
theorem sequenceAfter_pastHeader (i : Instr) (hi : IsField i) (hj : ∀ j, i ≠ .fwdjump j) (s : State) :
    PastHeader s (sequenceAfter i s) := by
  obtain ⟨v, f, hf⟩ := hi
  cases i with
  | nop | build | openCmd | resync | decode | replay | setpos | seed => cases hf
  | fwdjump j => exact absurd rfl (hj j)
  | qskip c n | qnoise c n => exact endChannel_pastHeader c n s
  | resA c n e => exact afterResA_pastHeader c n s
  | res0B c x => exact afterResB_pastHeader c 0 s
  | resxB c n x => exact afterResB_pastHeader c n s
  | resdB c n e =>
    simp only [sequenceAfter]
    split
    · exact ⟨rfl, nofun⟩
    · exact afterResB_pastHeader c n s
  | msflagB n m => exact endBand_pastHeader n s
  | scfiA c n e | scfiB c n e => exact enterIndicator_pastHeader _ s
  | scfrawA c n g x | dscfA c n g e | scfxB c n g x => exact nextScf_pastHeader c n g s
  | dscfB c n g e =>
    simp only [sequenceAfter]
    split
    · exact ⟨rfl, nofun⟩
    · exact nextScf_pastHeader c n g s
  | msflagA n m | shapeA c n x | shapeB c n x => exact ⟨rfl, nofun⟩
  | q1B c n j e | q2B c n j e => exact nextCoef_pastHeader c n _ s
  | _ c n k x => exact nextCoef_pastHeader c n _ s

/-- The header field counts the frame, but not the extra frame (47_commands.md R321, 46_synthesis.md R298). -/
theorem afterJump_frameCtr (s : State) :
    (afterJump s).dec.frameCtr = if s.run.extra then s.dec.frameCtr else s.dec.frameCtr + 1 := by
  unfold afterJump
  split <;> rfl

theorem afterJump_point (s : State) : (afterJump s).run.point = .res .l 0 := by
  unfold afterJump
  split <;> rfl

/-! What a field writes to Res. -/

@[simp] theorem storeScf_res (s : State) (c : Chan) (n : Subband) (g : Segment) (v : BitVec 8) :
    (storeScf s c n g v).dec.res = s.dec.res := by
  obtain ⟨scf, lastScf, h⟩ := storeScf_frame s c n g v
  rw [h]

/-- t writes at most one resolution of s, that of the field i, and the value lies in the domain (42_frame_parser.md R183);
or i raised ResRange. -/
def ResWritten (i : Instr) (s t : State) : Prop :=
  (∃ info u, t = raise .resRange info u) ∨ t.dec.res = s.dec.res ∨
    ∃ c n r, resPlace i = some (c, n) ∧ -1 ≤ r.toInt ∧ r.toInt ≤ 17 ∧ t.dec.res = bankSet s.dec.res c n r

theorem resWritten_of_writeRes {i : Instr} {c : Chan} {n : Subband} (hi : resPlace i = some (c, n)) (r : Int) (k : Nat)
    (s : State) : ResWritten i s (writeRes c n r (advance s k)) := by
  rcases writeRes_spec c n r (advance s k) with ⟨hlo, hhi, h, hr⟩ | ⟨-, h⟩ <;> rw [h]
  · exact .inr (.inr ⟨c, n, _, hi, by omega, by omega, rfl⟩)
  · exact .inl ⟨_, _, rfl⟩

/-- Four bits are a resolution (44_layout_b.md R241, R243). -/
theorem resLegal_of_four_bits (x : BitVec 4) : -1 ≤ (x.setWidth 8).toInt ∧ (x.setWidth 8).toInt ≤ 17 := by
  revert x
  decide

theorem exec_resWritten (i : Instr) (hi : IsField i) {s t : State} (h : exec i s = .next t) : ResWritten i s t := by
  obtain ⟨v, f, hf⟩ := hi
  cases i with
  | nop | build | openCmd | resync | decode | replay | setpos | seed => cases hf
  | resA c n e => cases h; exact resWritten_of_writeRes rfl _ _ s
  | resdB c n e =>
    simp only [exec, execResdB] at h
    split at h <;> cases h
    · exact .inr (.inl rfl)
    · exact resWritten_of_writeRes rfl _ _ s
  | res0B c x | resxB c n x =>
    cases h
    obtain ⟨hlo, hhi⟩ := resLegal_of_four_bits x
    exact .inr (.inr ⟨_, _, _, rfl, hlo, hhi, rfl⟩)
  | fwdjump j =>
    simp only [exec, execFwdjump] at h
    split at h <;> cases h <;> exact .inr (.inl rfl)
  | scfrawA c n g x | dscfA c n g e | scfxB c n g x => cases h; exact .inr (.inl (storeScf_res _ _ _ _ _))
  | dscfB c n g e =>
    simp only [exec, execDscfB] at h
    split at h <;> cases h
    · exact .inr (.inl rfl)
    · exact .inr (.inl (storeScf_res _ _ _ _ _))
  | _ => cases h; exact .inr (.inl rfl)

end Sys2Proof.Machine
end

section
/-! SUPPORT. The open stream, as the invariants of 10_state.md R46 and R54 see it: every step of the machine is a step of
this small view of the state. -/

namespace Sys2Proof.Machine

/-- What the invariants of an open stream speak of. -/
structure StreamView where
  opened   : Bool
  busy     : Bool
  point    : Point
  maxBand  : BitVec 5
  frames   : Word
  frameCtr : Word
  res      : Bank (BitVec 8)

/-- The view of a state. -/
def viewOf (s : State) : StreamView where
  opened := s.status.opened
  busy := s.status.busy
  point := s.run.point
  maxBand := s.latched.maxBand
  frames := s.latched.frames
  frameCtr := s.dec.frameCtr
  res := s.dec.res

/-- What one step can do to the view. -/
inductive StreamStep (v : StreamView) : StreamView → Prop
  /-- nothing: host accesses, NOP, SEED, a refused command, end of stream -/
  | kept : StreamStep v v
  /-- the stream is closed: a fatal error, a failing OPEN, the reset input -/
  | closed {w : StreamView} : w.opened = false → w.busy = false → StreamStep v w
  /-- OPEN, with the descriptor it latches -/
  | opened {w : StreamView} : w.busy = false → w.frameCtr = 0 → w.res = bankFill 0 → StreamStep v w
  /-- RESYNC -/
  | resync : v.busy = false → StreamStep v { v with res := bankFill 0 }
  /-- SETPOS -/
  | placed (fc : Word) : v.busy = false → fc.toNat ≤ v.frames.toNat → StreamStep v { v with frameCtr := fc }
  /-- DECODE or REPLAY with a frame left -/
  | started : v.frameCtr.toNat < v.frames.toNat → StreamStep v { v with busy := true, point := .fwdJump }
  /-- the command ends -/
  | ended : StreamStep v { v with busy := false, point := .idle }
  /-- a field or an internal phase -/
  | moved (p : Point) : p ≠ .fwdJump → StreamStep v { v with point := p }
  /-- the header field -/
  | counted (p : Point) : v.busy = true → v.point = .fwdJump → p ≠ .fwdJump →
      StreamStep v { v with frameCtr := v.frameCtr + 1, point := p }
  /-- a resolution field -/
  | resolved (c : Chan) (n : Subband) (r : BitVec 8) (p : Point) : n.val ≤ v.maxBand.toNat → -1 ≤ r.toInt →
      r.toInt ≤ 17 → p ≠ .fwdJump → StreamStep v { v with res := bankSet v.res c n r, point := p }

/-! The commands. -/

/-- A raise that leaves no stream open. -/
theorem raise_streamStep_closed {k : RaiseKind} {info : Nat} {s : State} {v : StreamView}
    (h : raiseFatal k = true ∨ s.status.opened = false) : StreamStep v (viewOf (raise k info s)) := by
  refine .closed ?_ (raise_busy k info s)
  rcases h with h | h <;> simp [viewOf, h]

theorem build_streamStep (s : State) : StreamStep (viewOf s) (viewOf (build (legal s))) := by
  rcases build_cases (legal s) with ⟨i, -, h⟩ | ⟨-, tab, tcls, h, -⟩ <;> rw [h]
  · exact .ended
  · exact .kept

theorem execOpen_streamStep {s t : State} (hb : s.status.busy = false) (h : execOpen s = .next t) :
    StreamStep (viewOf s) (viewOf t) := by
  unfold execOpen at h
  dsimp only at h
  split at h
  · split at h <;> cases h
    · exact raise_streamStep_closed (.inr rfl)
    · exact .opened hb rfl rfl
  · cases h
    exact .kept

theorem execResync_streamStep {s t : State} (hb : s.status.busy = false) (h : execResync s = .next t) :
    StreamStep (viewOf s) (viewOf t) := by
  unfold execResync at h
  split at h <;> cases h
  · exact .resync hb
  · exact .kept

theorem startFrame_streamStep (replay : Bool) (s : State) : StreamStep (viewOf s) (viewOf (startFrame replay s)) := by
  unfold startFrame
  dsimp only
  split
  · exact .kept
  · next h => exact .started (not_le.1 h)

theorem execSetpos_streamStep {s t : State} (hb : s.status.busy = false) (h : execSetpos s = .next t) :
    StreamStep (viewOf s) (viewOf t) := by
  unfold execSetpos at h
  split at h <;> cases h
  · next hp => exact .placed s.regs.frameTarget hb hp.2
  · exact .kept

/-- A command, run by an idle block (47_commands.md R310 to R320). -/
theorem command_streamStep {w : Word} {i : Instr} {s t : State} (hb : s.status.busy = false) (hw : decodeCmd w = .ok i)
    (h : exec i s = .next t) : StreamStep (viewOf s) (viewOf t) := by
  rcases decodeCmd_cases w i hw with rfl | rfl | rfl | rfl | rfl | rfl | rfl | rfl
  · cases h; exact .kept
  · cases h; exact build_streamStep s
  · exact execOpen_streamStep hb h
  · exact execResync_streamStep hb h
  · simp only [exec, execDecode] at h
    split at h <;> cases h
    · exact startFrame_streamStep _ s
    · exact .kept
  · simp only [exec, execReplay] at h
    split at h <;> cases h
    · exact startFrame_streamStep _ s
    · exact .kept
  · exact execSetpos_streamStep hb h
  · cases h; exact .kept

/-- An act of the host. -/
theorem hostStep_streamStep {act : HostAct} {s t : State} (h : hostStep act s = .next t) :
    StreamStep (viewOf s) (viewOf t) := by
  rcases hostStep_cases act s t h with ⟨w, i, hb, hw, hi⟩ | ⟨w, rfl⟩ | ⟨_, _, rfl, -⟩ | ⟨_, _, rfl, -⟩ | ⟨_, rfl⟩ |
    ⟨_, _, rfl, -⟩ | ⟨_, _, _, _, rfl⟩ | rfl
  · exact command_streamStep hb hw hi
  case inr.inr.inr.inr.inr.inr.inr => exact .closed rfl rfl
  all_goals exact .kept

/-! The block at work. -/

theorem synthStep_streamStep (s : State) : StreamStep (viewOf s) (viewOf (synthStep s)) := by
  rcases synthStep_cases s with ⟨_, _, _, _, _, h⟩ | ⟨_, h⟩ | ⟨_, _, _, h | h⟩ <;> rw [h]
  · exact .ended
  · exact .ended
  · exact .moved .extraJump nofun
  · exact .kept

theorem requantStep_streamStep (s : State) : StreamStep (viewOf s) (viewOf (requantStep s)) := by
  obtain ⟨_, _, _, _, _, h⟩ := requantStep_frame s
  rw [h]
  exact .moved .synth nofun

/-- A field that raised nothing writes of the view at most Res. -/
theorem viewOf_wrote {s t : State} (h : Wrote s t) : viewOf t = { viewOf s with res := t.dec.res } := by
  obtain ⟨_, _, _, _, _, _, _, _, rfl⟩ := h
  rfl

/-- The sequencer writes of the view at most its point and FRAME_CTR. -/
theorem viewOf_moved {s t : State} (h : Moved s t) :
    viewOf t = { viewOf s with point := t.run.point, frameCtr := t.dec.frameCtr } := by
  obtain ⟨_, _, _, _, _, _, _, _, rfl⟩ := h
  rfl

/-- A resolution field stands at a subband up to MaxBand (42_frame_parser.md R183). -/
theorem subband_le_of_pointOk {s : State} {c : Chan} {n : Subband} (hp : PointOk s)
    (h : s.run.point = .res c n ∨ s.run.point = .resX c n) : n.val ≤ s.latched.maxBand.toNat := by
  unfold PointOk at hp
  rcases h with h | h <;> simp only [h] at hp
  · exact hp
  · exact hp.1

/-- The header field counts its frame at the point it is read; the extra frame's is not counted. -/
theorem afterJump_streamStep {s : State} (hb : s.status.busy = true)
    (hx : s.run.point = .fwdJump ∨ s.run.extra = true) : StreamStep (viewOf s) (viewOf (afterJump s)) := by
  rw [viewOf_moved (afterJump_moved s), afterJump_frameCtr, afterJump_point]
  split
  · exact .moved _ nofun
  · next he => exact .counted _ hb (hx.resolve_right he) nofun

/-- The header field, which writes FWD_JUMP and BP alone before the sequencer moves on. -/
theorem fwdjump_streamStep {s u : State} {j : BitVec 20} (hb : s.status.busy = true) (hp : PointOk s)
    (hpoint : s.run.point = .fwdJump ∨ s.run.point = .extraJump) (hu : exec (.fwdjump j) s = .next u) :
    StreamStep (viewOf s) (viewOf (if u.status.busy then sequenceAfter (.fwdjump j) u else u)) := by
  have hx : s.run.point = .fwdJump ∨ s.run.extra = true := by
    refine hpoint.imp_right fun h => ?_
    unfold PointOk at hp
    simpa only [h] using hp
  obtain ⟨hv, hr⟩ : viewOf u = viewOf s ∧ u.run = s.run := by
    simp only [exec, execFwdjump] at hu
    split at hu <;> cases hu <;> exact ⟨rfl, rfl⟩
  have hbu : u.status.busy = true := (congrArg StreamView.busy hv).trans hb
  rw [if_pos hbu, ← hv]
  exact afterJump_streamStep hbu (hr ▸ hx)

/-- A field of the frame but the header field: it raises, or it writes at most its own resolution. -/
theorem laterField_streamStep {s u : State} {i : Instr} (hb : s.status.busy = true) (hi : IsField i)
    (hj : ∀ j, i ≠ .fwdjump j) (hn : ∀ c n, resPlace i = some (c, n) → n.val ≤ s.latched.maxBand.toNat)
    (hu : exec i s = .next u) : StreamStep (viewOf s) (viewOf (if u.status.busy then sequenceAfter i u else u)) := by
  obtain ⟨u', hu', hw⟩ := exec_field i s hi
  cases hu.symm.trans hu'
  rcases hw with hw | ⟨info, bp, rfl⟩
  · have hv := viewOf_wrote hw
    have hbu : u.status.busy = true := (congrArg StreamView.busy hv).trans hb
    obtain ⟨hfc, hpt⟩ := sequenceAfter_pastHeader i hi hj u
    have hfc' : u.dec.frameCtr = s.dec.frameCtr := congrArg StreamView.frameCtr hv
    rw [if_pos hbu, viewOf_moved (sequenceAfter_moved i hi u), hfc, hfc', hv]
    rcases exec_resWritten i hi hu with ⟨info, v, rfl⟩ | hres | ⟨c, n, r, hc, hlo, hhi, hres⟩
    · simp at hbu
    · rw [hres]
      exact .moved _ hpt
    · rw [hres]
      exact .resolved c n r _ (hn c n hc) hlo hhi hpt
  · rw [if_neg (by simp)]
    exact raise_streamStep_closed (.inl rfl)

/-- One field of the frame: read, run, and moved on from. -/
theorem field_streamStep {s u : State} {f : Field} {i : Instr} (hb : s.status.busy = true) (hp : PointOk s)
    (hf : fieldAt s = some f) (hi : fetch s f = .ok i) (hu : exec i s = .next u) :
    StreamStep (viewOf s) (viewOf (if u.status.busy then sequenceAfter i u else u)) := by
  obtain ⟨hjump, hplace⟩ := fieldAt_headerPoint hf (makes_of_fetch hi)
  by_cases hj : ∃ j, i = .fwdjump j
  · obtain ⟨j, rfl⟩ := hj
    exact fwdjump_streamStep hb hp (hjump j rfl) hu
  · exact laterField_streamStep hb (isField_of_fetch s f i hf hi) (not_exists.1 hj)
      (fun c n hc => subband_le_of_pointOk hp (hplace c n hc)) hu

/-- Every step of the machine is a step of the view. -/
theorem step_streamStep {s t : State} (hc : Coherent s) (h : step s = .next t) : StreamStep (viewOf s) (viewOf t) := by
  rcases step_cases s t h with ⟨op, rest, -, -, hh⟩ | ⟨hb, hk⟩ | ⟨-, rfl⟩
  · exact hostStep_streamStep (s := { s with host := rest }) hh
  · rcases blockStep_cases s t hk with ⟨k, info, hf, rfl⟩ | ⟨-, rfl⟩ | ⟨-, rfl⟩ | ⟨f, i, u, hf, hi, hu, rfl⟩
    · exact raise_streamStep_closed (.inl hf)
    · exact requantStep_streamStep s
    · exact synthStep_streamStep s
    · exact field_streamStep hb (hc.point hb) hf hi hu
  · exact .kept

/-! The two invariants on the view. -/

/-- `FrameCounterBounded` of a view. -/
def StreamView.CounterBounded (v : StreamView) : Prop :=
  (v.opened = true → v.frameCtr.toNat ≤ v.frames.toNat) ∧
    (v.busy = true → v.point = .fwdJump → v.frameCtr.toNat < v.frames.toNat)

theorem frameCounterBounded_iff (s : State) : FrameCounterBounded s ↔ (viewOf s).CounterBounded := Iff.rfl

/-- FRAME_CTR is below Frames where the header field is read, so that counting the frame keeps it within Frames. -/
theorem StreamStep.counterBounded {v w : StreamView} (h : StreamStep v w) (hv : v.CounterBounded) : w.CounterBounded := by
  obtain ⟨hle, hlt⟩ := hv
  cases h with
  | kept => exact ⟨hle, hlt⟩
  | closed ho hb => exact ⟨by simp [ho], by simp [hb]⟩
  | opened hb hfc hres => exact ⟨by simp [hfc], by simp [hb]⟩
  | resync hb => exact ⟨hle, by simp [hb]⟩
  | placed fc hb hfc => exact ⟨fun _ => hfc, by simp [hb]⟩
  | started h => exact ⟨hle, fun _ _ => h⟩
  | ended => exact ⟨hle, nofun⟩
  | moved p hp => exact ⟨hle, fun _ h => absurd h hp⟩
  | resolved c n r p hn hlo hhi hp => exact ⟨hle, fun _ h => absurd h hp⟩
  | counted p hb hpt hp =>
    have hctr := hlt hb hpt
    refine ⟨fun _ => ?_, fun _ h => absurd h hp⟩
    have : (v.frameCtr + 1).toNat ≤ v.frameCtr.toNat + 1 := by bv_omega
    exact this.trans hctr

/-- `ResolutionsLegal` of a view. -/
def StreamView.ResLegal (v : StreamView) : Prop :=
  v.opened = true → ∀ c n, -1 ≤ (bankGet v.res c n).toInt ∧ (bankGet v.res c n).toInt ≤ 17 ∧
    (v.maxBand.toNat < n.val → bankGet v.res c n = 0)

theorem resolutionsLegal_iff (s : State) : ResolutionsLegal s ↔ (viewOf s).ResLegal := Iff.rfl

theorem resLegal_of_zero {v : StreamView} (h : v.res = bankFill 0) : v.ResLegal := by
  intro _ c n
  simp [h]

/-- A resolution is written only at a subband up to MaxBand, with a value in its domain. -/
theorem StreamStep.resLegal {v w : StreamView} (h : StreamStep v w) (hv : v.ResLegal) : w.ResLegal := by
  cases h with
  | kept | placed | started | ended | moved | counted => exact hv
  | closed ho hb => intro h; simp [ho] at h
  | opened hb hfc hres => exact resLegal_of_zero hres
  | resync hb => exact resLegal_of_zero rfl
  | resolved c n r p hn hlo hhi hp =>
    intro ho d m
    simp only [bankGet_bankSet]
    split
    · next h => exact ⟨hlo, hhi, fun hm => absurd hm (by rw [h.2]; omega)⟩
    · exact hv ho d m

/-- Settles O55: the step is a step of the view, and every such step keeps the bound. -/
theorem frameCounterKept : Obligations.FrameCounterKept := by
  intro s t hc hs h
  rw [frameCounterBounded_iff] at hs ⊢
  exact (step_streamStep hc h).counterBounded hs

/-- Settles O56: the step is a step of the view, and every such step keeps the resolutions legal. -/
theorem resolutionsLegalKept : Obligations.ResolutionsLegalKept := by
  intro s t hc hs h
  rw [resolutionsLegal_iff] at hs ⊢
  exact (step_streamStep hc h).resLegal hs

end Sys2Proof.Machine
end

section
/-! SUPPORT. The control registers: what an idle host's access to each window does, what each offset reads as, and what a
write to one register does to the others (10_state.md R31 to R53, R66, R67). -/

namespace Sys2Proof.Machine

/-! The host's accesses to an idle block. -/

/-- An aligned 32-bit access inside its window does not stop while the block is idle. -/
theorem accessStop_idle {s : State} (hb : s.status.busy = false) (wr : Bool) {w : Window} {a : Nat} (ha : a % 4 = 0)
    (hw : a < windowSize w) : accessStop s wr w a 32 = none := by
  simp [accessStop, hb, ha, not_le.2 hw]

theorem windowSize_lit : windowSize .lit = 4096 := rfl

theorem windowSize_tab : windowSize .tab = 8192 := rfl

theorem hostStep_write_idle {s : State} (hb : s.status.busy = false) {w : Window} {a : Nat} (ha : a % 4 = 0)
    (hw : a < windowSize w) (v : Word) : hostStep (.write w a 32 v) s = windowWrite s w a v := by
  simp [hostStep, accessStop_idle hb true ha hw]

theorem hostStep_read_idle {s : State} (hb : s.status.busy = false) {w : Window} {a : Nat} (ha : a % 4 = 0)
    (hw : a < windowSize w) : hostStep (.read w a 32) s = .next { s with hostData := windowRead s w a :: s.hostData } := by
  simp [hostStep, accessStop_idle hb false ha hw]

/-- A host write to a register other than CMD. -/
theorem hostStep_write_reg {s : State} (hb : s.status.busy = false) {a : Nat} (ha : a % 4 = 0) (hw : a < 0x300)
    (h0 : a ≠ 0) (v : Word) : hostStep (.write .reg a 32 v) s = .next (regWrite s a v) := by
  rw [hostStep_write_idle (w := .reg) hb ha hw, windowWrite, if_neg h0]

/-- A host read of a register, given what it reads as. -/
theorem hostStep_read_reg {s : State} (hb : s.status.busy = false) {a : Nat} (ha : a % 4 = 0) (hw : a < 0x300) {v : Word}
    (hv : regRead s a = v) : hostStep (.read .reg a 32) s = .next { s with hostData := v :: s.hostData } := by
  rw [hostStep_read_idle (w := .reg) hb ha hw, windowRead, hv]

/-! The arrays TDIR and TCLS in the register window. -/

theorem arrayIndex_outside {base a : Nat} (h : a < base ∨ base + 136 ≤ a) : arrayIndex base a = none :=
  dif_neg (by omega)

@[simp] theorem arrayIndex_at (base : Nat) (i : Fin 34) : arrayIndex base (base + 4 * i.val) = some i := by
  simp [arrayIndex]

theorem regRead_tcls (s : State) (i : Fin 34) : regRead s (0x200 + 4 * i.val) = s.tcls[i].setWidth 32 := by
  simp only [regRead, arrayIndex_at]

theorem regRead_tdir (s : State) (i : Fin 34) : regRead s (0x100 + 4 * i.val) = s.tdir[i].setWidth 32 := by
  simp only [regRead, arrayIndex_at, arrayIndex_outside (base := 0x200) (a := 0x100 + 4 * i.val) (by omega)]

/-- CMD and the reserved offsets read 0 (10_state.md R31). -/
theorem regRead_reserved (s : State) {a : Nat}
    (h : a = 0 ∨ (0x64 ≤ a ∧ a < 0x100) ∨ (0x188 ≤ a ∧ a < 0x200) ∨ 0x288 ≤ a) : regRead s a = 0 := by
  unfold regRead
  rw [arrayIndex_outside (base := 0x200) (by omega), arrayIndex_outside (base := 0x100) (by omega)]
  dsimp only
  split <;> first | rfl | omega

/-! Words and their named bits. -/

/-- Keeping the low k bits of a word is masking it. -/
theorem setWidth_setWidth_eq_and (v : Word) (k : Nat) :
    (v.setWidth k).setWidth 32 = v &&& BitVec.ofNat 32 (2 ^ k - 1) := by
  apply BitVec.eq_of_getLsbD_eq
  intro i hi
  simp only [BitVec.getLsbD_setWidth, BitVec.getLsbD_and, BitVec.getLsbD_ofNat, Nat.testBit_two_pow_sub_one, hi,
    decide_true, Bool.true_and, Bool.and_comm]

theorem flagBit_getLsbD_zero (v : Word) : flagBit (v.getLsbD 0) 0 = v &&& 1 := by
  have h : v &&& 1 = (BitVec.ofBool (v.getLsbD 0)).setWidth 32 := BitVec.and_one_eq_setWidth_ofBool_getLsbD
  rw [h]
  cases v.getLsbD 0 <;> rfl

theorem getLsbD_flagBit (b : Bool) {i : Nat} (hi : i < 32) (j : Nat) :
    (flagBit b i).getLsbD j = (b && decide (i = j)) := by
  cases b
  · simp [flagBit]
  · simp only [flagBit, if_true, BitVec.getLsbD_twoPow, Bool.true_and]
    simp [hi]

theorem getLsbD_statusWord (t : Status) (j : Nat) : (statusWord t).getLsbD j =
    (t.busy && decide (0 = j) || t.tablesReady && decide (1 = j) || t.opened && decide (2 = j) ||
      t.frameValid && decide (3 = j) || t.eos && decide (4 = j) || t.warm && decide (5 = j) ||
      t.errIo && decide (8 = j) || t.errVersion && decide (9 = j) || t.errTable && decide (10 = j) ||
      t.errCmd && decide (11 = j) || t.errRes && decide (12 = j) || t.errDesc && decide (13 = j)) := by
  simp (disch := decide) only [statusWord, BitVec.getLsbD_or, getLsbD_flagBit]

/-- STATUS shows its flags at the bits of 10_state.md R33. -/
theorem showsStatus_statusWord (t : Status) : showsStatus t (statusWord t) := by
  have reserved (j : Nat) (hj : j = 6 ∨ j = 7 ∨ 14 ≤ j) : (statusWord t).getLsbD j = false := by
    have hne : ∀ i ∈ [0, 1, 2, 3, 4, 5, 8, 9, 10, 11, 12, 13], i ≠ j := by
      intro i hi
      simp only [List.mem_cons, List.not_mem_nil, or_false] at hi
      omega
    simp only [List.forall_mem_cons] at hne
    simp [getLsbD_statusWord, hne]
  simp only [showsStatus, getLsbD_statusWord] at reserved ⊢
  simpa using reserved

theorem phaseCode_setWidth (p : Phase) : (phaseCode p).setWidth 32 = phaseNumber p := by
  cases p <;> rfl

/-! The RW registers. -/

/-- The RW registers: offset and named bits (10_state.md R31). -/
def rwRegisters : List (Nat × Word) :=
  [(0x0C, 0xFF), (0x10, 0xFFFFFFFF), (0x14, 0x1F), (0x18, 0xFFFFFFFF), (0x1C, 1), (0x20, 0x7FF), (0x24, 0xFFFFFFFF),
    (0x28, 1), (0x2C, 0xFFFFFFFF), (0x30, 0xFFFFFFFF), (0x34, 1), (0x54, 0xFFFFFFFF), (0x58, 0xFFFFFFFF),
    (0x5C, 0xFFFFFFFF)]

/-- Outside TDIR a write changes the registers alone. -/
theorem regWrite_outside_tdir (s : State) {a : Nat} (h : a < 0x100 ∨ 0x188 ≤ a) (v : Word) :
    regWrite s a v = { s with regs := regsWrite s.regs a v } := by
  rw [regWrite, arrayIndex_outside (by omega)]

/-- At any other offset it changes nothing. -/
theorem regsWrite_other (r : Regs) {a : Nat} (h : ∀ x ∈ rwRegisters, a ≠ x.1) (v : Word) : regsWrite r a v = r := by
  simp only [rwRegisters, List.forall_mem_cons] at h
  unfold regsWrite
  split <;> first | rfl | omega

/-- A written RW register reads as the word's named bits. -/
theorem regRead_regsWrite_self (s : State) (v : Word) :
    ∀ x ∈ rwRegisters, regRead { s with regs := regsWrite s.regs x.1 v } x.1 = v &&& x.2 := by
  have full : v = v &&& 0xFFFFFFFF := BitVec.and_allOnes.symm
  have low := setWidth_setWidth_eq_and v
  have flag := flagBit_getLsbD_zero v
  simp only [rwRegisters, List.forall_mem_cons]
  exact ⟨low 8, full, low 5, full, flag, low 11, full, flag, full, full, flag, full, full, full, nofun⟩

/-- The offsets are compared case by case: where they differ, so do the register written and the register read. -/
theorem regRead_regsWrite_ne (s : State) (v : Word) {a b : Nat} (h : a ≠ b) :
    regRead { s with regs := regsWrite s.regs b v } a = regRead s a := by
  unfold regRead
  split
  · rfl
  · rfl
  · unfold regsWrite
    split <;> first | rfl | (split <;> first | rfl | exact absurd rfl h)

/-- The registers of `registerWords` read as their words (10_state.md R34 to R53). -/
theorem regRead_registerWords (s : State) : ∀ x ∈ registerWords s, regRead s x.1 = x.2 := by
  have lo : s.dec.bp.extractLsb' 0 32 = s.dec.bp.setWidth 32 := BitVec.eq_of_getLsbD_eq fun i hi => by simp [hi]
  have hi : s.dec.bp.extractLsb' 32 32 = (s.dec.bp >>> 32).setWidth 32 :=
    BitVec.eq_of_getLsbD_eq fun i hi => by simp [hi]
  simp only [registerWords, List.forall_mem_cons]
  exact ⟨rfl, rfl, rfl, rfl, rfl, rfl, rfl, rfl, rfl, rfl, rfl, rfl, rfl, lo, hi, rfl, rfl, rfl, rfl, rfl, rfl, rfl,
    phaseCode_setWidth s.phase, nofun⟩

theorem offset_registerWords (s : State) : ∀ x ∈ registerWords s, x.1 % 4 = 0 ∧ x.1 < 0x300 := by
  simp [registerWords]

theorem offset_rwRegisters : ∀ x ∈ rwRegisters, x.1 % 4 = 0 ∧ x.1 < 0x100 ∧ x.1 ≠ 0 := by
  simp [rwRegisters]

/-- A write to an RW register changes what that register reads as to the word's named bits, and no other register. -/
theorem hostStep_write_rw {s : State} (hb : s.status.busy = false) (v : Word) : ∀ x ∈ rwRegisters,
    ∃ t, hostStep (.write .reg x.1 32 v) s = .next t ∧ t = { s with regs := t.regs } ∧
      regRead t x.1 = v &&& x.2 ∧ ∀ a, a ≠ x.1 → regRead t a = regRead s a := by
  intro x hx
  obtain ⟨h4, hlt, h0⟩ := offset_rwRegisters x hx
  refine ⟨{ s with regs := regsWrite s.regs x.1 v }, ?_, rfl, regRead_regsWrite_self s v x hx,
    fun a ha => regRead_regsWrite_ne s v ha⟩
  rw [hostStep_write_reg hb h4 (by omega) h0, regWrite_outside_tdir s (.inl hlt)]

/-- A write to an offset that holds neither an RW register nor TDIR nor CMD changes nothing (10_state.md R31). -/
theorem hostStep_write_other {s : State} (hb : s.status.busy = false) (v : Word) {a : Nat} (h4 : a % 4 = 0)
    (hw : a < 0x300) (h0 : a ≠ 0) (hx : ∀ x ∈ rwRegisters, a ≠ x.1) (ht : a < 0x100 ∨ 0x188 ≤ a) :
    hostStep (.write .reg a 32 v) s = .next s := by
  rw [hostStep_write_reg hb h4 hw h0, regWrite_outside_tdir s ht, regsWrite_other s.regs hx]

/-- Settles O48: each clause is the host's access to an idle block with what the register reads as. -/
theorem registerAccess : Obligations.RegisterAccess := by
  intro s v hb
  refine ⟨hostStep_write_rw hb v, fun a h4 hw h0 hx ht => hostStep_write_other hb v h4 hw h0 hx ht,
    fun a h4 ha => hostStep_read_reg hb h4 (by omega) (regRead_reserved s (by omega)),
    ⟨statusWord s.status, hostStep_read_reg hb rfl (by decide) rfl, showsStatus_statusWord s.status⟩,
    fun x hx => ?_, fun i => ⟨?_, ?_⟩⟩
  · obtain ⟨h4, hw⟩ := offset_registerWords s x hx
    exact hostStep_read_reg hb h4 hw (regRead_registerWords s x hx)
  · exact hostStep_read_reg hb (by omega) (by omega) (regRead_tdir s i)
  · exact hostStep_read_reg hb (by omega) (by omega) (regRead_tcls s i)

/-! The tables of the host (10_state.md R66, R67). -/

/-- A write to TDIR stores the named 25 bits until BUILD succeeded. -/
theorem regWrite_tdir (s : State) (i : Fin 34) (v : Word) : regWrite s (0x100 + 4 * i.val) v =
    if s.status.tablesReady then s else { s with tdir := s.tdir.set i (v.setWidth 25) } := by
  simp only [regWrite, arrayIndex_at, low25]

theorem hostStep_write_tdir {s : State} (hb : s.status.busy = false) (i : Fin 34) (v : Word) :
    hostStep (.write .reg (0x100 + 4 * i.val) 32 v) s =
      .next (if s.status.tablesReady then s else { s with tdir := s.tdir.set i (v.setWidth 25) }) := by
  rw [hostStep_write_reg hb (by omega) (by omega) (by omega), regWrite_tdir]

/-- Byte b of a word in address order (20_memory.md R76). -/
theorem wordBytes_getElem (w : Word) (b : Nat) (hb : b < 4) :
    (wordBytes w)[b]'hb = w.extractLsb' (8 * b) 8 := by
  match b, hb with
  | 0, _ | 1, _ | 2, _ | 3, _ => rfl

theorem ramByte_ramWrite_wordBytes (sp : Space) (m : Ram) (a : Nat) (w : Word) {b : Nat} (hb : b < 4) :
    ramByte sp (ramWrite m a (wordBytes w)) (a + b) = w.extractLsb' (8 * b) 8 := by
  have hin : a ≤ a + b ∧ a + b < a + (wordBytes w).length := by rw [length_wordBytes]; omega
  simp only [ramByte_ramWrite, dif_pos hin, Nat.add_sub_cancel_left]
  exact wordBytes_getElem w b hb

theorem wordAt_lit_write (s : State) (a : Nat) (v : Word) :
    wordAt { s with lit := ramWrite s.lit a (wordBytes v) } .lit a v :=
  fun _ hb => ramByte_ramWrite_wordBytes .lit s.lit a v hb

theorem byteAt_lit_write (s : State) (a : Nat) (v : Word) (sp : Space) (x : Nat) (h : sp = .lit → x < a ∨ a + 4 ≤ x) :
    byteAt { s with lit := ramWrite s.lit a (wordBytes v) } sp x = byteAt s sp x := by
  cases sp with
  | lit => exact ramByte_ramWrite_outside .lit s.lit a (wordBytes v) x (h rfl)
  | tab | out | stream => rfl

/-- Settles O49: a write to TDIR or LIT is stored exactly while TABLES_READY = 0, one to TAB never. -/
theorem tablesReadOnlyOnceBuilt : Obligations.TablesReadOnlyOnceBuilt := by
  intro s v i j k hb hj hk
  have htdir := hostStep_write_tdir hb i v
  have hlit := hostStep_write_idle (w := .lit) (a := 4 * j) hb (by omega) (by rw [windowSize_lit]; omega) v
  have htab := hostStep_write_idle (w := .tab) (a := 4 * k) hb (by omega) (by rw [windowSize_tab]; omega) v
  refine ⟨fun hr => ⟨?_, ?_⟩, fun hr => ⟨?_, ?_⟩, htab⟩
  · rw [htdir, if_pos hr]
  · rw [hlit, windowWrite, if_pos hr]
  · rw [htdir, if_neg (by simp [hr])]
  · refine ⟨{ s with lit := ramWrite s.lit (4 * j) (wordBytes v) }, ?_, rfl, wordAt_lit_write s _ v,
      byteAt_lit_write s _ v⟩
    rw [hlit, windowWrite, if_neg (by simp [hr])]

/-! The machine after reset. -/

/-- Settles O57: after reset no memory lists a byte, the block is idle and no stream is open (10_state.md R69). -/
theorem invariantsAtReset : Obligations.InvariantsAtReset :=
  ⟨⟨.nil, .nil, .nil, .nil⟩, ⟨fun _ => rfl, nofun, nofun, nofun⟩, ⟨nofun, nofun⟩, nofun⟩

end Sys2Proof.Machine
end

section
/-! SUPPORT. The memories (20_memory.md R70 to R84): what a step of the running block leaves of the host's data, the
canonical form of the memories, and the byte order of their words. -/

namespace Sys2Proof.Machine

/-! What the block at work leaves unchanged. -/

/-- t has the host's data of s: the tables, STREAM, the latched copies, the registers the host writes and the host's own
acts (20_memory.md R70, R83). OUT, which the block may write, is canonical if it was. -/
structure HostDataKept (s t : State) : Prop where
  tdir        : t.tdir = s.tdir
  tcls        : t.tcls = s.tcls
  latched     : t.latched = s.latched
  streamFault : t.streamFault = s.streamFault
  streamDirty : t.streamDirty = s.streamDirty
  host        : t.host = s.host
  hostData    : t.hostData = s.hostData
  regs        : t.regs = { s.regs with errInfo := t.regs.errInfo, samplesOut := t.regs.samplesOut }
  tablesReady : t.status.tablesReady = s.status.tablesReady
  lit         : t.lit = s.lit
  tab         : t.tab = s.tab
  stream      : t.stream = s.stream
  out         : s.out.cells.wf → t.out.cells.wf

theorem HostDataKept.trans {s t u : State} (hst : HostDataKept s t) (htu : HostDataKept t u) : HostDataKept s u where
  tdir := htu.tdir.trans hst.tdir
  tcls := htu.tcls.trans hst.tcls
  latched := htu.latched.trans hst.latched
  streamFault := htu.streamFault.trans hst.streamFault
  streamDirty := htu.streamDirty.trans hst.streamDirty
  host := htu.host.trans hst.host
  hostData := htu.hostData.trans hst.hostData
  regs := htu.regs.trans (by rw [hst.regs])
  tablesReady := htu.tablesReady.trans hst.tablesReady
  lit := htu.lit.trans hst.lit
  tab := htu.tab.trans hst.tab
  stream := htu.stream.trans hst.stream
  out h := htu.out (hst.out h)

theorem HostDataKept.byteAt {s t : State} (h : HostDataKept s t) {sp : Space} (hsp : sp ≠ .out) (a : Nat) :
    byteAt t sp a = byteAt s sp a := by
  cases sp with
  | lit => exact congrArg (ramByte .lit · a) h.lit
  | tab => exact congrArg (ramByte .tab · a) h.tab
  | out => exact absurd rfl hsp
  | stream => exact congrArg (ramByte .stream · a) h.stream

/-- DecoderState, the frame, the sequencer, PHASE, and STATUS but TABLES_READY are no data of the host. -/
theorem hostDataKept_of_internal (s : State) (st : Status) (ph : Phase) (d : Decoder) (f : Frame) (r : Run)
    (hst : st.tablesReady = s.status.tablesReady) :
    HostDataKept s { s with status := st, phase := ph, dec := d, frame := f, run := r } :=
  ⟨rfl, rfl, rfl, rfl, rfl, rfl, rfl, rfl, hst, rfl, rfl, rfl, id⟩

/-- A raise writes ERR_INFO and SAMPLES_OUT, and OUT becomes unspecified (60_exceptions.md R340, 70_reset_and_hazards.md
R375). -/
theorem raise_hostDataKept (k : RaiseKind) (info : Nat) (s : State) : HostDataKept s (raise k info s) := by
  cases k <;> exact ⟨rfl, rfl, rfl, rfl, rfl, rfl, rfl, rfl, rfl, rfl, rfl, rfl, fun _ => wf_ramForget s.out⟩

theorem Wrote.hostDataKept {s t : State} (h : Wrote s t) : HostDataKept s t := by
  obtain ⟨_, _, _, _, _, _, _, _, rfl⟩ := h
  exact hostDataKept_of_internal s _ _ _ _ _ rfl

theorem Moved.hostDataKept {s t : State} (h : Moved s t) : HostDataKept s t := by
  obtain ⟨_, _, _, _, _, _, _, _, rfl⟩ := h
  exact hostDataKept_of_internal s _ _ _ _ _ rfl

theorem exec_field_hostDataKept {i : Instr} (hi : IsField i) {s t : State} (h : exec i s = .next t) :
    HostDataKept s t := by
  obtain ⟨t', ht', hw⟩ := exec_field i s hi
  cases h.symm.trans ht'
  rcases hw with hw | ⟨info, bp, rfl⟩
  · exact hw.hostDataKept
  · exact (hostDataKept_of_internal s _ _ { s.dec with bp := bp } _ _ rfl).trans (raise_hostDataKept .resRange info _)

theorem requantStep_hostDataKept (s : State) : HostDataKept s (requantStep s) := by
  obtain ⟨_, _, _, _, _, h⟩ := requantStep_frame s
  rw [h]
  exact hostDataKept_of_internal s _ _ _ _ _ rfl

/-- The synthesis writes OUT and SAMPLES_OUT when it emits (46_synthesis.md R300 to R302). -/
theorem synthStep_hostDataKept (s : State) : HostDataKept s (synthStep s) := by
  rcases synthStep_cases s with ⟨_, _, bs, _, _, h⟩ | ⟨_, h⟩ | ⟨_, _, _, h | h⟩ <;> rw [h]
  · exact ⟨rfl, rfl, rfl, rfl, rfl, rfl, rfl, rfl, rfl, rfl, rfl, rfl, wf_ramWrite s.out 0 bs⟩
  all_goals exact hostDataKept_of_internal s _ _ _ _ _ rfl

theorem blockStep_hostDataKept {s t : State} (h : blockStep s = .next t) : HostDataKept s t := by
  rcases blockStep_cases s t h with ⟨k, info, -, rfl⟩ | ⟨-, rfl⟩ | ⟨-, rfl⟩ | ⟨f, i, u, hf, hi, hu, rfl⟩
  · exact raise_hostDataKept k info s
  · exact requantStep_hostDataKept s
  · exact synthStep_hostDataKept s
  · have hfield := isField_of_fetch s f i hf hi
    have hexec := exec_field_hostDataKept hfield hu
    split
    · exact hexec.trans (sequenceAfter_moved i hfield u).hostDataKept
    · exact hexec

/-- Settles O59: with no act of the host due the step is the block's. -/
theorem blockLeavesHostData : Obligations.BlockLeavesHostData := by
  intro s t hn hb h
  rw [step_of_noActDue s hn hb] at h
  have hk := blockStep_hostDataKept h
  exact ⟨hk.tdir, hk.tcls, hk.latched, hk.streamFault, hk.streamDirty, hk.host, hk.hostData, hk.regs, hk.tablesReady,
    fun _ a hsp => hk.byteAt hsp a⟩

/-! The canonical form of the memories. -/

theorem HostDataKept.memoryCanonical {s t : State} (hk : HostDataKept s t) (h : MemoryCanonical s) :
    MemoryCanonical t := by
  obtain ⟨hlit, htab, hout, hstream⟩ := h
  exact ⟨hk.lit ▸ hlit, hk.tab ▸ htab, hk.out hout, hk.stream ▸ hstream⟩

/-- BUILD writes TAB as `ramWrite` does, or it raises. -/
theorem build_memoryCanonical {s : State} (h : MemoryCanonical s) : MemoryCanonical (build s) := by
  rcases build_cases s with ⟨i, -, hb⟩ | ⟨-, tab, tcls, hb, hwf⟩ <;> rw [hb]
  · exact (raise_hostDataKept _ _ { s with status.tablesReady := false }).memoryCanonical h
  · obtain ⟨hlit, htab, hout, hstream⟩ := h
    exact ⟨hlit, hwf htab, hout, hstream⟩

theorem execOpen_memoryCanonical {s t : State} (h : MemoryCanonical s) (ht : execOpen s = .next t) :
    MemoryCanonical t := by
  unfold execOpen at ht
  dsimp only at ht
  split at ht
  · split at ht <;> cases ht
    · exact (raise_hostDataKept _ _ (forgetStream _)).memoryCanonical h
    · exact h
  · cases ht
    exact h

theorem startFrame_memoryCanonical (replay : Bool) {s : State} (h : MemoryCanonical s) :
    MemoryCanonical (startFrame replay s) := by
  unfold startFrame
  dsimp only
  split <;> exact h

/-- Of the commands only BUILD, and OPEN by a raise, touch a memory. -/
theorem command_memoryCanonical {w : Word} {i : Instr} {s t : State} (hw : decodeCmd w = .ok i)
    (h : MemoryCanonical s) (ht : exec i s = .next t) : MemoryCanonical t := by
  rcases decodeCmd_cases w i hw with rfl | rfl | rfl | rfl | rfl | rfl | rfl | rfl
  · cases ht
    exact h
  · cases ht
    exact build_memoryCanonical (s := legal s) h
  · exact execOpen_memoryCanonical h ht
  · simp only [exec, execResync] at ht
    split at ht <;> cases ht <;> exact h
  · simp only [exec, execDecode] at ht
    split at ht <;> cases ht
    · exact startFrame_memoryCanonical false h
    · exact h
  · simp only [exec, execReplay] at ht
    split at ht <;> cases ht
    · exact startFrame_memoryCanonical true h
    · exact h
  · simp only [exec, execSetpos] at ht
    split at ht <;> cases ht <;> exact h
  · cases ht
    exact h

theorem hardwareReset_memoryCanonical {s : State} (h : MemoryCanonical s) : MemoryCanonical (hardwareReset s) := by
  obtain ⟨-, -, -, hstream⟩ := h
  exact ⟨wf_ramForget s.lit, wf_ramForget s.tab, wf_ramForget s.out, hstream⟩

/-- An act of the host: a command, a write to LIT, OUT or STREAM, the reset input, or no change of a memory. -/
theorem hostStep_memoryCanonical {act : HostAct} {s t : State} (h : MemoryCanonical s) (ht : hostStep act s = .next t) :
    MemoryCanonical t := by
  have ⟨hlit, htab, hout, hstream⟩ := h
  rcases hostStep_cases act s t ht with ⟨w, i, -, hw, hi⟩ | ⟨w, rfl⟩ | ⟨_, _, rfl, -⟩ | ⟨a, v, rfl, -⟩ | ⟨_, rfl⟩ |
    ⟨a, v, rfl, -⟩ | ⟨a, b, _, _, rfl⟩ | rfl
  · exact command_memoryCanonical hw h hi
  · exact h
  · exact h
  · exact ⟨wf_ramWrite s.lit a _ hlit, htab, hout, hstream⟩
  · exact h
  · exact ⟨hlit, htab, wf_ramWrite s.out a _ hout, hstream⟩
  · exact ⟨hlit, htab, hout, wf_ramWrite s.stream a _ hstream⟩
  · exact hardwareReset_memoryCanonical h

/-- Settles O53: by cases on whether the step is the host's, the block's or none. -/
theorem memoryCanonicalKept : Obligations.MemoryCanonicalKept := by
  intro s t h ht
  rcases step_cases s t ht with ⟨op, rest, -, -, hh⟩ | ⟨-, hk⟩ | ⟨-, rfl⟩
  · exact hostStep_memoryCanonical (s := { s with host := rest }) h hh
  · exact (blockStep_hostDataKept hk).memoryCanonical h
  · exact h

/-! Byte order. -/

/-- The memory of a space. -/
def ramOf (s : State) : Space → Ram
  | .lit => s.lit
  | .tab => s.tab
  | .out => s.out
  | .stream => s.stream

theorem byteAt_eq_ramByte (s : State) (sp : Space) (a : Nat) : byteAt s sp a = ramByte sp (ramOf s sp) a := by
  cases sp <;> rfl

/-- Byte b of a 32-bit unit is the byte at the address b above its own (20_memory.md R76). -/
theorem extractLsb'_ramWord (sp : Space) (m : Ram) (a : Nat) {b : Nat} (hb : b < 4) :
    (ramWord sp m a).extractLsb' (8 * b) 8 = ramByte sp m (a + b) := by
  apply BitVec.eq_of_getLsbD_eq
  intro i hi
  rw [BitVec.getLsbD_extractLsb', ramWord_getLsbD sp m a (8 * b + i) (by omega), show (8 * b + i) / 8 = b by omega,
    show (8 * b + i) % 8 = i by omega]
  simp [hi]

/-- The 32-bit unit of a space at a is the word `ramWord` puts together. -/
theorem wordAt_ramWord (s : State) (sp : Space) (a : Nat) : wordAt s sp a (ramWord sp (ramOf s sp) a) := by
  intro b hb
  rw [byteAt_eq_ramByte, extractLsb'_ramWord sp _ a hb]

/-- A bit of a readable word, no change of STREAM behind the reader (20_memory.md R75). -/
theorem streamBit_of_readable {s : State} {p : Nat} (hd : s.streamDirty = none) (hf : wordFails s (p / 32) = false) :
    streamBit s p = some ((streamWord s (p / 32)).getLsbD (31 - p % 32)) := by
  simp [streamBit, bitValue, hd, hf]

/-- An idle block answers a read of the window w with the word of the space sp behind it. -/
theorem hostStep_read_wordAt {s : State} (hb : s.status.busy = false) {w : Window} {sp : Space} {a : Nat}
    (ha : a % 4 = 0) (hw : a < windowSize w) (hr : windowRead s w a = ramWord sp (ramOf s sp) a) :
    ∃ v, wordAt s sp a v ∧ hostStep (.read w a 32) s = .next { s with hostData := v :: s.hostData } :=
  ⟨_, wordAt_ramWord s sp a, by rw [hostStep_read_idle hb ha hw, hr]⟩

theorem windowSize_out : windowSize .out = 18432 := rfl

theorem wordAt_out_write (s : State) (a : Nat) (v : Word) :
    wordAt { s with out := ramWrite s.out a (wordBytes v) } .out a v :=
  fun _ hb => ramByte_ramWrite_wordBytes .out s.out a v hb

theorem byteAt_out_write_outside (s : State) (a : Nat) (v : Word) {x : Nat} (h : x < a ∨ a + 4 ≤ x) :
    byteAt { s with out := ramWrite s.out a (wordBytes v) } .out x = byteAt s .out x :=
  ramByte_ramWrite_outside .out s.out a (wordBytes v) x h

/-- Settles O50: a stream bit and a host's read see the word of `wordAt_ramWord`; a write to OUT stores the bytes of its
word in that order, or nothing (log 20). -/
theorem byteOrder : Obligations.ByteOrder := by
  refine ⟨fun s p hd hf => ⟨_, wordAt_ramWord s .stream _, streamBit_of_readable hd hf⟩, fun s a w sp hb ha hw => ?_,
    fun s a v hb ha hw => ?_⟩
  · rcases hw with ⟨rfl, rfl, hlt⟩ | ⟨rfl, rfl, hlt⟩ | ⟨rfl, rfl, hlt⟩ <;> exact hostStep_read_wordAt hb ha hlt rfl
  · rw [hostStep_write_idle (w := .out) hb ha (windowSize_out ▸ hw), windowWrite]
    refine ⟨_, rfl, ?_⟩
    split
    · exact .inr ⟨rfl, wordAt_out_write s a v, fun x hx => byteAt_out_write_outside s a v hx⟩
    · exact .inl rfl

end Sys2Proof.Machine
end

section
/-! SUPPORT. The encoding (30_encoding.md R101, R104, R106, R107): what the encoder writes, the decoder reads back. -/

namespace Sys2Proof

open Machine

/-! Command words. -/

/-- A command's word decodes to it (30_encoding.md R101). -/
theorem decodeCmd_of_encode {w : Word} {i : Instr} (h : i.encode = .word w) : decodeCmd w = .ok i := by
  cases i <;> simp only [Instr.encode, Code.word.injEq, reduceCtorEq] at h <;> subst h <;> rfl

/-- A word that decodes is the word of its command; the reserved words decode to none (30_encoding.md R116). -/
theorem encode_of_decodeCmd {w : Word} {i : Instr} (h : decodeCmd w = .ok i) : i.encode = .word w := by
  unfold decodeCmd at h
  split at h
  · cases h
  · split at h <;> cases h
    all_goals
      rename_i hw
      exact congrArg Code.word (BitVec.eq_of_toNat_eq hw.symm)

/-! RAW fields. -/

/-- Bit j of a field that is followed by anything. -/
theorem getElem?_rawCode_append {n j : Nat} (v : Nat) (rest : List StreamBit) (hj : j < n) :
    ((rawCode n v).map some ++ rest)[j]? = some (some (v.testBit (n - 1 - j))) := by
  rw [List.getElem?_append_left (by simpa using hj), List.getElem?_map, rawCode_getElem? n v j hj]
  rfl

/-- The number of n bits whose bit string, and anything behind it, is read (30_encoding.md R106). -/
theorem decodeRaw_rawCode {n v : Nat} (h1 : 1 ≤ n) (h20 : n ≤ 20) (hv : v < 2 ^ n) (rest : List StreamBit) :
    decodeRaw n ((rawCode n v).map some ++ rest) = .ok v := by
  obtain ⟨x, hx, hlt, hbit⟩ := readBits_ok n 0 0 ((rawCode n v).map some ++ rest) (fun j => v.testBit (n - 1 - j))
    (fun j hj => getElem?_rawCode_append v rest hj)
  have hxv : x = v := by
    refine Nat.eq_of_testBit_eq fun k => ?_
    by_cases hk : k < n
    · have := hbit (n - 1 - k) (by omega)
      rwa [show n - 1 - (n - 1 - k) = k by omega] at this
    · have hpow : 2 ^ n ≤ 2 ^ k := Nat.pow_le_pow_right (by omega) (by omega)
      rw [Nat.testBit_lt_two_pow (by omega), Nat.testBit_lt_two_pow (by omega)]
  rw [decodeRaw, if_neg (by omega), hx, hxv, Nat.zero_mul, Nat.zero_add]

/-- A flag is the one bit of its number. -/
theorem testBit_zero_toNat (b : Bool) : b.toNat.testBit 0 = b := by cases b <;> rfl

/-- A RAW field is the bits of a number of its width, and the number makes the instruction. -/
theorem encode_of_raw {i : Instr} {v : Bool} {n : Nat} {mk : Nat → Instr} (hw : i.wf = true)
    (hf : i.field v = some (.raw n mk)) :
    ∃ x < 2 ^ n, i.encode = .bits (rawCode n x) ∧ mk x = i ∧ 1 ≤ n ∧ n ≤ 20 := by
  cases i <;> simp only [Instr.field, Option.some.injEq, reduceCtorEq, Field.raw.injEq] at hf <;>
    obtain ⟨rfl, rfl⟩ := hf
  case fwdjump j => exact ⟨j.toNat, j.isLt, rfl, by simp, by decide, by decide⟩
  case scfrawA c n g x | scfxB c n g x => exact ⟨x.toNat, x.isLt, rfl, by simp, by decide, by decide⟩
  case res0B c x => exact ⟨x.toNat, x.isLt, rfl, by simp, by decide, by decide⟩
  case resxB c n x => exact ⟨x.toNat, x.isLt, rfl, by simp, by decide, by decide⟩
  case msflagA n b | msflagB n b =>
    exact ⟨b.toNat, b.toNat_lt, rfl, by simp only [testBit_zero_toNat], by decide, by decide⟩
  case shapeA c n b | shapeB c n b =>
    exact ⟨b.toNat, b.toNat_lt, rfl, by simp only [testBit_zero_toNat], by decide, by decide⟩
  all_goals exact ⟨_, of_decide_eq_true hw, rfl, rfl, Laws.FieldWidth.resBits_range _⟩

/-- A RAW field decodes to what its bit string stands for. -/
theorem decodeField_rawCode {n x : Nat} (mk : Nat → Instr) (tables : Layout → Fin 17 → Table) (h1 : 1 ≤ n) (h20 : n ≤ 20)
    (hx : x < 2 ^ n) (rest : List StreamBit) :
    decodeField (.raw n mk) tables ((rawCode n x).map some ++ rest) = .ok (mk x) := by
  rw [decodeField, decodeRaw_rawCode h1 h20 hx, Except.map]

/-! HUF fields. -/

/-- The codeword of a built entry has LEN bits. -/
theorem Entry.code_lt {e : Entry} (h : e.len.toNat ≤ 32) : e.code < 2 ^ e.len.toNat := by
  rw [Entry.code, Nat.shiftRight_eq_div_pow, Nat.div_lt_iff_lt_mul (by positivity), ← pow_add,
    show e.len.toNat + (32 - e.len.toNat) = 32 by omega]
  exact e.codeLA.isLt

theorem Entry.len_le_of_wf {e : Entry} (h : e.wf = true) : e.len.toNat ≤ 14 := by
  simp only [Entry.wf, Bool.and_eq_true, decide_eq_true_eq] at h
  obtain ⟨⟨⟨⟨-, hlen⟩, -⟩, -⟩, -⟩ := h
  exact hlen

/-- The window starts with the codeword whose bits come next (41_huffman.md R160). -/
theorem entryMatches_of_bits {w : Nat} {e : Entry} {bits : List StreamBit} (hw : e.len.toNat ≤ w)
    (hc : e.code < 2 ^ e.len.toNat)
    (hb : ∀ j < e.len.toNat, bits[j]? = some (some (e.code.testBit (e.len.toNat - 1 - j)))) :
    entryMatches w (peekBits w 0 bits) e = true := by
  obtain ⟨x, hx, hlt, hbit⟩ := peekBits_spec w 0 bits
  rw [entryMatches, beq_iff_eq, hx, Nat.zero_mul, Nat.zero_add]
  refine Nat.eq_of_testBit_eq fun k => ?_
  rw [Nat.testBit_shiftRight]
  by_cases hk : k < e.len.toNat
  · have := hbit (e.len.toNat - 1 - k) (by omega)
    rw [hb _ (by omega), show w - 1 - (e.len.toNat - 1 - k) = w - e.len.toNat + k by omega,
      show e.len.toNat - 1 - (e.len.toNat - 1 - k) = k by omega] at this
    exact this
  · have h1 : 2 ^ w ≤ 2 ^ (w - e.len.toNat + k) := Nat.pow_le_pow_right (by omega) (by omega)
    have h2 : 2 ^ e.len.toNat ≤ 2 ^ k := Nat.pow_le_pow_right (by omega) (by omega)
    rw [Nat.testBit_lt_two_pow (by omega), Nat.testBit_lt_two_pow (by omega)]

/-- Of two codewords that start one window the shorter starts the longer. -/
theorem shiftRight_code_of_entryMatches {w win : Nat} {x y : Entry} (hx : entryMatches w win x = true)
    (hy : entryMatches w win y = true) (hyw : y.len.toNat ≤ w) (hxy : x.len.toNat ≤ y.len.toNat) :
    y.code >>> (y.len.toNat - x.len.toNat) = x.code := by
  rw [entryMatches, beq_iff_eq] at hx hy
  rw [← hx, ← hy, ← Nat.shiftRight_add]
  congr 1
  omega

/-- In a table with no codeword at the start of another, the entry whose codeword comes next is the one HufDec finds
(41_huffman.md R160, R166). -/
theorem decodeHuf_of_bits {t : Table} {w : Nat} {e : Entry} {bits : List StreamBit} (hw : classWidth t.cls = some w)
    (he : e ∈ t.entries) (hlen : ∀ x ∈ t.entries, x.len.toNat ≤ w)
    (hpf : ∀ x ∈ t.entries, ∀ y ∈ t.entries, x.len.toNat ≤ y.len.toNat →
      y.code >>> (y.len.toNat - x.len.toNat) = x.code → x = y)
    (hc : e.code < 2 ^ e.len.toNat)
    (hb : ∀ j < e.len.toNat, bits[j]? = some (some (e.code.testBit (e.len.toNat - 1 - j)))) :
    decodeHuf t bits = .ok e := by
  have hm := entryMatches_of_bits (hlen e he) hc hb
  have hfind : t.entries.find? (entryMatches w (peekBits w 0 bits)) = some e := by
    cases hx : t.entries.find? (entryMatches w (peekBits w 0 bits)) with
    | none => exact absurd hm (List.find?_eq_none.1 hx e he)
    | some x =>
      have hxt := List.mem_of_find?_eq_some hx
      have hxm := List.find?_some hx
      rcases Nat.le_total x.len.toNat e.len.toNat with hle | hle
      · exact congrArg some (hpf x hxt e he hle (shiftRight_code_of_entryMatches hxm hm (hlen e he) hle))
      · exact congrArg some (hpf e he x hxt hle (shiftRight_code_of_entryMatches hm hxm (hlen x hxt) hle)).symm
  unfold decodeHuf
  simp only [hw, hfind, firstFail_none e.len.toNat 0 bits fun j hj => ⟨_, hb j hj⟩]

theorem decodeField_huf {l : Layout} {t : Fin 17} (mk : Entry → Instr) {tables : Layout → Fin 17 → Table}
    {bits : List StreamBit} {e : Entry} (h : decodeHuf (tables l t) bits = .ok e) :
    decodeField (.huf l t mk) tables bits = .ok (mk e) := by
  rw [decodeField, h, Except.map]

/-! Zero-width fields. -/

theorem encode_of_zero {i j : Instr} {v : Bool} (hf : i.field v = some (.zero j)) : i.encode = .bits [] ∧ j = i := by
  cases i <;> simp only [Instr.field, Option.some.injEq, reduceCtorEq, Field.zero.injEq] at hf <;> exact ⟨rfl, hf.symm⟩

/-- Settles O47: the commands word by word, the fields by the three kinds of format. -/
theorem codesAgree : Obligations.CodesAgree := by
  refine ⟨fun w i => ⟨encode_of_decodeCmd, decodeCmd_of_encode⟩, fun i v f tables rest hwf hf htab => ?_⟩
  cases f with
  | zero j =>
    obtain ⟨he, rfl⟩ := encode_of_zero hf
    exact ⟨[], he, rfl⟩
  | raw n mk =>
    obtain ⟨x, hx, he, hmk, h1, h20⟩ := encode_of_raw hwf hf
    exact ⟨_, he, hmk ▸ decodeField_rawCode mk tables h1 h20 hx rest⟩
  | huf l t mk =>
    obtain ⟨e, w, he, hmk, hmem, hcls, hentries, hpf⟩ := htab l t mk rfl
    have hlen := Entry.len_le_of_wf (hentries e hmem).1
    have hdec := decodeHuf_of_bits hcls hmem (fun x hx => (hentries x hx).2) hpf (Entry.code_lt (by omega))
      (fun j hj => getElem?_rawCode_append e.code rest hj)
    exact ⟨_, he, hmk ▸ decodeField_huf mk hdec⟩

/-! Words and fields written out. -/

/-- Settles O46: each word and each bit string is what the encoder writes; under the code of the example the bits 10 are the
second entry's. -/
theorem wordsDecode : Obligations.WordsDecode :=
  ⟨decodeCmd_of_encode rfl, decodeCmd_of_encode rfl, decodeCmd_of_encode rfl, decodeCmd_of_encode rfl,
    decodeCmd_of_encode rfl, decodeCmd_of_encode rfl, decodeCmd_of_encode rfl, decodeCmd_of_encode rfl,
    decodeField_rawCode (n := 20) (x := 42) _ _ (by decide) (by decide) (by decide) [],
    decodeField_rawCode (n := 6) (x := 40) _ _ (by decide) (by decide) (by decide) [],
    decodeField_huf _ (decodeHuf_of_bits (w := 5) rfl (by decide) (by decide) (by decide) (by decide) (by decide))⟩

end Sys2Proof
end

section
/-! SUPPORT. The sequencer: the field each point reads, the point each field is followed by, and the step that runs a field
(30_encoding.md R100, R109, R110). -/

namespace Sys2Proof.Machine

/-! A step. -/

/-- Settles O40: the write of CMD reaches `runCommand`, the field at the point is fetched and run. -/
theorem stepRunsDecoded : Obligations.StepRunsDecoded := by
  refine ⟨fun s now w rest i hh hb hw => ?_, fun s t f i hn hb hf hd hx => ?_⟩
  · have hstep : step s = hostStep (.write .reg 0 32 w) { s with host := rest } := by simp [step, hh, hb]
    rw [hstep, hostStep_write_idle (s := { s with host := rest }) (w := .reg) hb rfl (by decide)]
    simp [windowWrite, hb, runCommand, hw]
  · have hfetch : fetch s f = .ok i := hd
    rw [step_of_noActDue s hn hb, blockStep_field s f hf]
    simp only [fieldStep, hf, hfetch, hx, thenSequence]

/-! The field a point of the header reads. -/

theorem fieldAt_res_a {s : State} {c : Chan} {n : Subband} (hp : s.run.point = .res c n) (hl : s.latched.layout = .a) :
    fieldAt s = some (.huf .a tblHdr (.resA c n)) := by
  simp [fieldAt, hp, hl]

theorem fieldAt_res_b {s : State} {c : Chan} {n : Subband} (hp : s.run.point = .res c n) (hl : s.latched.layout = .b) :
    fieldAt s = if n = 0 then some (.raw 4 fun x => .res0B c (.ofNat 4 x)) else some (.huf .b tblHdr (.resdB c n)) := by
  simp [fieldAt, hp, hl]

theorem fieldAt_resX {s : State} {c : Chan} {n : Subband} (hp : s.run.point = .resX c n) :
    fieldAt s = some (.raw 4 fun x => .resxB c n (.ofNat 4 x)) := by
  simp [fieldAt, hp]

theorem fieldAt_ms_a {s : State} {n : Subband} (hp : s.run.point = .ms n) (hl : s.latched.layout = .a) :
    fieldAt s = some (.raw 1 fun x => .msflagA n (x.testBit 0)) := by
  simp [fieldAt, hp, hl]

theorem fieldAt_ms_b {s : State} {n : Subband} (hp : s.run.point = .ms n) (hl : s.latched.layout = .b) :
    fieldAt s = some (.raw 1 fun x => .msflagB n (x.testBit 0)) := by
  simp [fieldAt, hp, hl]

theorem readsHuf_of_fieldAt {s : State} {l : Layout} {t : Fin 17} {mk : Entry → Instr}
    (h : fieldAt s = some (.huf l t mk)) : readsHuf s l t.val mk :=
  ⟨mk, t, rfl, h, fun _ => rfl⟩

theorem readsRaw_of_fieldAt {s : State} {n : Nat} {mk : Nat → Instr} (h : fieldAt s = some (.raw n mk)) :
    readsRaw s n mk :=
  ⟨mk, h, fun _ _ => rfl⟩

/-- A field of one bit is a flag. -/
theorem readsRaw_flag_of_fieldAt {s : State} {mk : Bool → Instr} (h : fieldAt s = some (.raw 1 fun x => mk (x.testBit 0))) :
    readsRaw s 1 fun x => mk (decide (x = 1)) := by
  refine ⟨_, h, fun x hx => congrArg mk ?_⟩
  have hx : x = 0 ∨ x = 1 := by omega
  rcases hx with rfl | rfl <;> rfl

/-! The subband-channels in their order (42_frame_parser.md R182). -/

theorem chanOrder_injective {c d : Chan} {n m : Subband} (h : chanOrder c n = chanOrder d m) : c = d ∧ n = m := by
  cases c <;> cases d <;> simp only [chanOrder, chanCode] at h <;>
    first | exact ⟨rfl, Fin.ext (by omega)⟩ | omega

theorem mem_chanList (c : Chan) (n : Subband) : (c, n) ∈ chanList := by
  cases c <;> simp [chanList]

theorem pairwise_chanList : chanList.Pairwise fun x y => chanOrder x.1 x.2 < chanOrder y.1 y.2 := by
  rw [chanList, List.pairwise_flatMap]
  refine ⟨fun n _ => by simp [chanOrder, chanCode], (List.pairwise_lt_finRange 32).imp fun {n m} hnm => ?_⟩
  have hlt : n.val < m.val := hnm
  simp only [List.mem_cons, List.not_mem_nil, or_false]
  rintro x (rfl | rfl) y (rfl | rfl) <;> simp only [chanOrder, chanCode] <;> omega

/-- What the search of `nextCoded` asks of a subband-channel. -/
theorem codedFrom_iff (s : State) (k : Nat) (c : Chan) (n : Subband) :
    (decide (k ≤ chanOrder c n) && decide (n.val ≤ s.dec.maxUsed.toNat) && coded s c n) = true ↔ codedFrom s k c n := by
  simp only [codedFrom, coded, Bool.and_eq_true, decide_eq_true_eq, bne_iff_ne]
  tauto

theorem nextCoded_eq_none {s : State} {k : Nat} (h : noneCoded s k) : nextCoded s k = none :=
  List.find?_eq_none.2 fun ⟨c, n⟩ _ hx => h c n ((codedFrom_iff s k c n).1 hx)

/-- The search finds the first coded subband-channel: `chanList` is in ascending order. -/
theorem nextCoded_eq_some {s : State} {k : Nat} {c : Chan} {n : Subband} (h : firstCoded s k c n) :
    nextCoded s k = some (c, n) := by
  obtain ⟨hcoded, hfirst⟩ := h
  cases hx : nextCoded s k with
  | none => exact absurd ((codedFrom_iff s k c n).2 hcoded) (List.find?_eq_none.1 hx (c, n) (mem_chanList c n))
  | some x =>
    obtain ⟨d, m⟩ := x
    obtain ⟨hp, before, after, hsplit, hbefore⟩ := List.find?_eq_some_iff_append.1 hx
    have hle := hfirst d m ((codedFrom_iff s k d m).1 hp)
    have hmem : (c, n) ∈ before ++ (d, m) :: after := hsplit ▸ mem_chanList c n
    rcases List.mem_append.1 hmem with hb | hb
    · have := hbefore _ hb
      rw [(codedFrom_iff s k c n).2 hcoded] at this
      cases this
    · rcases List.mem_cons.1 hb with heq | ha
      · exact congrArg some heq.symm
      · have hord := pairwise_chanList
        rw [hsplit, List.pairwise_append, List.pairwise_cons] at hord
        obtain ⟨-, ⟨hlt, -⟩, -⟩ := hord
        have := hlt _ ha
        dsimp only at this
        omega

/-! The point after a field. -/

theorem enterSamples_samplesFrom (c : Chan) (n : Subband) (s : State) : samplesFrom s (enterSamples c n s) c n := by
  refine ⟨fun hl h1 h7 => ?_, fun h => ?_⟩
  · simp [enterSamples, hl, h1, h7, shapeSel, enter, phaseOf]
  · have hno : ¬ (decide (1 ≤ (resOf s c n).toInt) && decide ((resOf s c n).toInt ≤ 7) &&
        shapeSel s.latched.layout) = true := by
      simp only [Bool.and_eq_true, decide_eq_true_eq]
      rintro ⟨⟨h1, h7⟩, hsel⟩
      rcases h with hl | hlt | hgt
      · rw [hl] at hsel
        cases hsel
      · omega
      · omega
    rw [enterSamples, if_neg hno]
    rfl

theorem enterIndicator_of_first {s : State} {k : Nat} {c : Chan} {n : Subband} (h : firstCoded s k c n) :
    enterIndicator k s = enter (.scfi c n) s := by
  simp [enterIndicator, nextCoded_eq_some h]

theorem enterIndicator_of_none {s : State} {k : Nat} {c : Chan} {n : Subband} (hk : noneCoded s k)
    (h : firstCoded s 0 c n) : enterIndicator k s = enter (.scf c n 0) s := by
  simp [enterIndicator, nextCoded_eq_none hk, nextCoded_eq_some h]

theorem enterIndicator_of_noneCoded {s : State} {k : Nat} (hk : noneCoded s k) (h : noneCoded s 0) :
    enterIndicator k s = enterSamples .l 0 s := by
  simp [enterIndicator, nextCoded_eq_none hk, nextCoded_eq_none h]

theorem enterScalefactor_of_first {s : State} {k : Nat} {c : Chan} {n : Subband} (h : firstCoded s k c n) :
    enterScalefactor k s = enter (.scf c n 0) s := by
  simp [enterScalefactor, nextCoded_eq_some h]

theorem enterScalefactor_of_noneCoded {s : State} {k : Nat} (h : noneCoded s k) :
    enterScalefactor k s = enterSamples .l 0 s := by
  simp [enterScalefactor, nextCoded_eq_none h]

theorem nextBand_eq {n m : Subband} (h : m.val = n.val + 1) : nextBand n = m :=
  Fin.ext (by have := m.isLt; simp only [nextBand]; omega)

/-! The header. -/

theorem sequenceAfter_completesResB {c : Chan} {n : Subband} {i : Instr} (h : completesResB c n i) (s : State) :
    sequenceAfter i s = afterResB c n s := by
  rcases h with ⟨hn, x, rfl⟩ | ⟨e, he, rfl⟩ | ⟨x, rfl⟩
  · rw [show n = 0 from Fin.ext hn]
    rfl
  · exact if_neg he
  · rfl

theorem sequenceAfter_endsBand {s u : State} {n : Subband} {i : Instr} (h : endsBand s n i u) :
    sequenceAfter i s = endBand n u := by
  rcases h with ⟨rfl, ⟨e, rfl⟩ | ⟨b, rfl⟩⟩ | ⟨rfl, hi, hflag⟩
  · rfl
  · rfl
  · have hno : ¬ (s.latched.msEnable && (coded s .l n || coded s .r n)) = true := by
      rcases hflag with hms | ⟨hl, hr⟩
      · simp [hms]
      · simp [coded, hl, hr]
    rw [sequenceAfter_completesResB hi, afterResB, if_neg hno]
    rfl

/-- Where MS[n] is cleared the latched copies stay. -/
theorem endsBand_latched {s u : State} {n : Subband} {i : Instr} (h : endsBand s n i u) : u.latched = s.latched := by
  rcases h with ⟨rfl, -⟩ | ⟨rfl, -⟩ <;> rfl

theorem enterSamples_dec (c : Chan) (n : Subband) (s : State) : (enterSamples c n s).dec = s.dec := by
  unfold enterSamples
  split <;> rfl

theorem enterIndicator_dec (k : Nat) (s : State) : (enterIndicator k s).dec = s.dec := by
  unfold enterIndicator
  split
  · rfl
  · split
    · rfl
    · exact enterSamples_dec _ _ s

/-- The end of the header: MaxUsed is written, and the search starts anew (42_frame_parser.md R182, R184). -/
theorem endHeader_headerDone (u : State) : headerDone u (endHeader u) := by
  have hmax : (endHeader u).dec.maxUsed = maxUsedOf u := by rw [endHeader, enterIndicator_dec]
  unfold headerDone
  rw [hmax]
  refine ⟨fun c n h => ?_, fun h => ?_⟩
  · rw [endHeader, enterIndicator_of_first h]
    rfl
  · rw [endHeader, enterIndicator_of_noneCoded h h]
    exact enterSamples_samplesFrom _ _ _

/-- Settles O29: the field at each point of the header, then the point after each of its fields. -/
theorem headerOrder : Obligations.HeaderOrder := by
  intro s n
  refine ⟨fun c hp => ⟨fun hl => readsHuf_of_fieldAt (fieldAt_res_a hp hl), fun hl hn => ?_, fun hl hn => ?_⟩,
    fun c hp => readsRaw_of_fieldAt (fieldAt_resX hp),
    fun hp => ⟨fun hl => readsRaw_flag_of_fieldAt (fieldAt_ms_a hp hl),
      fun hl => readsRaw_flag_of_fieldAt (fieldAt_ms_b hp hl)⟩,
    fun e => ?_, fun b => rfl, fun i hi => sequenceAfter_completesResB hi s, fun i hi hms hres => ?_,
    fun i u hi => ⟨fun m hm hmax => ?_, fun hn => ?_⟩⟩
  · exact readsRaw_of_fieldAt (by rw [fieldAt_res_b hp hl, if_pos (Fin.ext hn)])
  · have hn0 : n ≠ 0 := fun h => absurd (congrArg Fin.val h) (Nat.pos_iff_ne_zero.1 hn)
    exact readsHuf_of_fieldAt (by rw [fieldAt_res_b hp hl, if_neg hn0])
  · show afterResA .l n s = _
    cases hms : s.latched.msEnable <;> simp [afterResA, hms, enter, phaseOf]
  · have hcoded : (s.latched.msEnable && (coded s .l n || coded s .r n)) = true := by simpa [hms, coded] using hres
    rw [sequenceAfter_completesResB hi, afterResB, if_pos hcoded]
    rfl
  · have hlt : n.val < u.latched.maxBand.toNat := by
      rw [endsBand_latched hi]
      omega
    rw [sequenceAfter_endsBand hi, endBand, if_pos hlt, nextBand_eq hm]
    rfl
  · have hlast : ¬ n.val < u.latched.maxBand.toNat := by
      rw [endsBand_latched hi]
      omega
    rw [sequenceAfter_endsBand hi, endBand, if_neg hlast]
    exact endHeader_headerDone u

/-! The indicators. -/

theorem fieldAt_scfi_a {s : State} {c : Chan} {n : Subband} (hp : s.run.point = .scfi c n)
    (hl : s.latched.layout = .a) : fieldAt s = some (.huf .a tblScfi (.scfiA c n)) := by
  simp [fieldAt, hp, hl]

theorem fieldAt_scfi_b {s : State} {c : Chan} {n : Subband} (hp : s.run.point = .scfi c n)
    (hl : s.latched.layout = .b) : fieldAt s = some (.huf .b tblScfi (.scfiB c n)) := by
  simp [fieldAt, hp, hl]

/-- Settles O31: the next coded subband-channel is the one the search finds. -/
theorem indicatorOrder : Obligations.IndicatorOrder := by
  intro s c n
  refine ⟨fun hp => ⟨fun hl => readsHuf_of_fieldAt (fieldAt_scfi_a hp hl),
    fun hl => readsHuf_of_fieldAt (fieldAt_scfi_b hp hl)⟩, fun e i hi => ?_⟩
  have hseq : sequenceAfter i s = enterIndicator (chanOrder c n + 1) s := by rcases hi with rfl | rfl <;> rfl
  rw [hseq]
  refine ⟨fun d m h => enterIndicator_of_first h, fun hnone => ⟨fun d m h => enterIndicator_of_none hnone h, fun h => ?_⟩⟩
  rw [enterIndicator_of_noneCoded hnone h]
  exact enterSamples_samplesFrom _ _ s

/-! The scalefactors. -/

theorem fieldAt_scf_a {s : State} {c : Chan} {n : Subband} {g : Segment} (hp : s.run.point = .scf c n g)
    (hl : s.latched.layout = .a) :
    fieldAt s = if bankGet s.frame.dflag c n then some (.huf .a tblDscf (.dscfA c n g))
      else some (.raw 6 fun x => .scfrawA c n g (.ofNat 6 x)) := by
  simp [fieldAt, hp, hl]

theorem fieldAt_scf_b {s : State} {c : Chan} {n : Subband} {g : Segment} (hp : s.run.point = .scf c n g)
    (hl : s.latched.layout = .b) : fieldAt s = some (.huf .b tblDscf (.dscfB c n g)) := by
  simp [fieldAt, hp, hl]

theorem fieldAt_scfX {s : State} {c : Chan} {n : Subband} {g : Segment} (hp : s.run.point = .scfX c n g) :
    fieldAt s = some (.raw 6 fun x => .scfxB c n g (.ofNat 6 x)) := by
  simp [fieldAt, hp]

/-- The next segment the indicator transmits (42_frame_parser.md R186): 4 indicators, 3 segments. -/
theorem nextSegment_eq_some : ∀ (f : BitVec 2) (g g' : Segment), transmitted f.toNat g → transmitted f.toNat g' → g < g' →
    (∀ m : Segment, transmitted f.toNat m → g < m → g' ≤ m) → nextSegment f g = some g' := by
  decide

theorem nextSegment_eq_none : ∀ (f : BitVec 2) (g : Segment), lastSent f.toNat g → nextSegment f g = none := by
  decide

/-- Settles O32: after an index, the segment of `nextSegment`, or the next coded subband-channel. -/
theorem scalefactorOrder : Obligations.ScalefactorOrder := by
  intro s c n g
  refine ⟨fun hp => ⟨fun hl hd => ?_, fun hl hd => ?_, fun hl => readsHuf_of_fieldAt (fieldAt_scf_b hp hl)⟩,
    fun hp => readsRaw_of_fieldAt (fieldAt_scfX hp), fun e x i hi => ?_⟩
  · exact readsHuf_of_fieldAt (by rw [fieldAt_scf_a hp hl, if_pos hd])
  · exact readsRaw_of_fieldAt (by rw [fieldAt_scf_a hp hl, if_neg (by simp [hd])])
  · have hseq : sequenceAfter i s = nextScf c n g s := by
      rcases hi with rfl | rfl | ⟨rfl, he⟩ | rfl
      · rfl
      · rfl
      · exact if_neg he
      · rfl
    intro f hg
    rw [hseq]
    refine ⟨fun g' hg' hlt hnext => ?_, fun hlast => ⟨fun d m h => ?_, fun h => ?_⟩⟩
    · simp only [nextScf, nextSegment_eq_some _ g g' hg hg' hlt hnext]
      rfl
    · simp only [nextScf, nextSegment_eq_none _ g hlast, enterScalefactor_of_first h]
      rfl
    · simp only [nextScf, nextSegment_eq_none _ g hlast, enterScalefactor_of_noneCoded h]
      exact enterSamples_samplesFrom _ _ s

/-! The samples. -/

theorem fieldAt_shape_a {s : State} {c : Chan} {n : Subband} (hp : s.run.point = .shape c n)
    (hl : s.latched.layout = .a) : fieldAt s = some (.raw 1 fun x => .shapeA c n (x.testBit 0)) := by
  simp [fieldAt, hp, hl]

theorem fieldAt_shape_b {s : State} {c : Chan} {n : Subband} (hp : s.run.point = .shape c n)
    (hl : s.latched.layout = .b) : fieldAt s = some (.raw 1 fun x => .shapeB c n (x.testBit 0)) := by
  simp [fieldAt, hp, hl]

theorem sequenceAfter_symbolA (r : Fin 7) (c : Chan) (n : Subband) (k : Slot) (e : Entry) (s : State) :
    sequenceAfter (symbolA r c n k e) s = nextCoef c n (k.val + 1) s := by
  fin_cases r <;> rfl

theorem sequenceAfter_symbolB (r : Fin 5) (c : Chan) (n : Subband) (k : Slot) (e : Entry) (s : State) :
    sequenceAfter (symbolB r c n k e) s = nextCoef c n (k.val + 1) s := by
  fin_cases r <;> rfl

theorem sequenceAfter_qfix (j : Fin 10) (c : Chan) (n : Subband) (k : Slot) (x : Nat) (s : State) :
    sequenceAfter (qfix j c n k x) s = nextCoef c n (k.val + 1) s := by
  fin_cases j <;> rfl

theorem nextCoef_slot (c : Chan) (n : Subband) (k : Slot) (s : State) :
    nextCoef c n k.val s = enter (.coef c n k) s := dif_pos k.isLt

theorem sequenceAfter_beforeCoef {c : Chan} {n : Subband} {k : Slot} {i : Instr} (h : beforeCoef c n k i) (s : State) :
    sequenceAfter i s = enter (.coef c n k) s := by
  rw [← nextCoef_slot]
  rcases h with ⟨h, hk, ⟨r, e, rfl⟩ | ⟨r, e, rfl⟩ | ⟨j, x, rfl⟩⟩ | ⟨j, e, hk, rfl⟩ | ⟨j, e, hk, rfl⟩
  · rw [sequenceAfter_symbolA, hk]
  · rw [sequenceAfter_symbolB, hk]
  · rw [sequenceAfter_qfix, hk]
  · rw [← hk]
    rfl
  · rw [← hk]
    rfl

theorem sequenceAfter_endsChannel {c : Chan} {n : Subband} {i : Instr} (h : endsChannel c n i) (s : State) :
    sequenceAfter i s = endChannel c n s := by
  rcases h with rfl | rfl | ⟨r, e, rfl⟩ | ⟨r, e, rfl⟩ | ⟨e, rfl⟩ | ⟨e, rfl⟩ | ⟨j, x, rfl⟩
  · rfl
  · rfl
  · rw [sequenceAfter_symbolA]
    rfl
  · rw [sequenceAfter_symbolB]
    rfl
  · rfl
  · rfl
  · rw [sequenceAfter_qfix]
    rfl

/-- Settles O33: the coefficients of a subband-channel in order, then R after L and the next subband after R. -/
theorem samplesOrder : Obligations.SamplesOrder := by
  intro s c n
  refine ⟨fun hp => ⟨fun hl => readsRaw_flag_of_fieldAt (fieldAt_shape_a hp hl),
      fun hl => readsRaw_flag_of_fieldAt (fieldAt_shape_b hp hl)⟩,
    fun x i hi => by rcases hi with rfl | rfl <;> rfl, fun k i hi => sequenceAfter_beforeCoef hi s,
    fun i hi => ?_, fun i m hi hm hmax => ?_⟩
  · rw [sequenceAfter_endsChannel hi]
    exact enterSamples_samplesFrom .r n s
  · have hlast : endChannel .r n s = enterSamples .l m s := by
      rw [endChannel, if_pos (by omega), nextBand_eq hm]
    rw [sequenceAfter_endsChannel hi, hlast]
    exact enterSamples_samplesFrom .l m s

end Sys2Proof.Machine
end

section
/-! SUPPORT. What BUILD writes (41_huffman.md R153 to R155): the entry of a symbol, the order of a table's entries, the length
class, and TAB after the last table. -/

namespace Sys2Proof.Machine

/-! The entry of a symbol (41_huffman.md R153). -/

theorem litEntry_codeLA (d : BitVec 25) (j : Nat) {w : Word} (hlen : litLen w ≤ 14) (hcode : litCode w < 2 ^ litLen w) :
    (litEntry d j w).codeLA.toNat = litCode w * 2 ^ (32 - litLen w) := by
  have hlt : litCode w * 2 ^ (32 - litLen w) < 2 ^ litLen w * 2 ^ (32 - litLen w) :=
    Nat.mul_lt_mul_of_pos_right hcode (by positivity)
  rw [← pow_add, show litLen w + (32 - litLen w) = 32 by omega] at hlt
  rw [litEntry, BitVec.toNat_ofNat, Nat.shiftLeft_eq, Nat.mod_eq_of_lt hlt]

theorem litEntry_len (d : BitVec 25) (j : Nat) {w : Word} (hlen : litLen w ≤ 14) :
    (litEntry d j w).len.toNat = litLen w := by
  rw [litEntry, BitVec.toNat_ofNat]
  omega

/-- VOFF has 8 bits, so the value of one of at most 64 symbols fits (30_encoding.md R102). -/
theorem litEntry_value (d : BitVec 25) {j : Nat} (w : Word) (hj : j < 64) :
    (litEntry d j w).value.toInt = (j : Int) - tdirVoff d := by
  have hvoff : tdirVoff d < 256 := (d.extractLsb' 17 8).isLt
  rw [litEntry, BitVec.toInt_ofInt_eq_self] <;> omega

theorem litEntry_eq_iff (d : BitVec 25) {j : Nat} {w : Word} (hj : j < 64) (hlen : litLen w ≤ 14)
    (hcode : litCode w < 2 ^ litLen w) (x : Entry) :
    litEntry d j w = x ↔ x.codeLA.toNat = litCode w * 2 ^ (32 - litLen w) ∧ x.len.toNat = litLen w ∧
      x.value.toInt = (j : Int) - tdirVoff d := by
  rw [← litEntry_codeLA d j hlen hcode, ← litEntry_len d j hlen, ← litEntry_value d w hj, BitVec.toNat_inj,
    BitVec.toNat_inj, BitVec.toInt_inj]
  obtain ⟨code, len, value⟩ := x
  generalize litEntry d j w = y
  obtain ⟨code', len', value'⟩ := y
  simp only [Entry.mk.injEq]
  constructor <;> rintro ⟨rfl, rfl, rfl⟩ <;> exact ⟨rfl, rfl, rfl⟩

/-- Left-aligned codewords are equal only when the shorter starts the longer (41_huffman.md R152 c). -/
theorem leftAligned_ne {a b m n : Nat} (hmn : m ≤ n) (hn : n ≤ 32) (h : b / 2 ^ (n - m) ≠ a) :
    a * 2 ^ (32 - m) ≠ b * 2 ^ (32 - n) := by
  intro heq
  rw [show 32 - m = (n - m) + (32 - n) by omega, pow_add, ← Nat.mul_assoc] at heq
  have hb : a * 2 ^ (n - m) = b := Nat.eq_of_mul_eq_mul_right (by positivity) heq
  exact h (by rw [← hb, Nat.mul_div_cancel _ (by positivity)])

/-! The entries of a table, largest CODE_LA first (41_huffman.md R154). -/

@[simp] theorem length_litTable (lit : Ram) (d : BitVec 25) : (litTable lit d).length = tdirCount d := by
  simp [litTable]

/-- The literal table lists the symbols' words. -/
theorem mem_litTable (s : State) (i : Fin 34) (w : Word) :
    w ∈ litTable s.lit s.tdir[i] ↔ ∃ j < tdirCount s.tdir[i], symbolWord s i j = w := by
  simp only [litTable, List.mem_map, List.mem_range, symbolWord]

theorem mem_builtEntries (s : State) (i : Fin 34) (x : Entry) :
    x ∈ builtEntries s.lit s.tdir[i] ↔ ∃ j < tdirCount s.tdir[i], litEntry s.tdir[i] j (symbolWord s i j) = x := by
  rw [builtEntries, List.mem_insertionSort, List.mem_mapIdx]
  simp only [litTable, List.length_map, List.length_range, List.getElem_map, List.getElem_range, symbolWord, exists_prop]

/-- No two symbols have the same CODE_LA. -/
theorem litEntry_codeLA_ne {s : State} {i : Fin 34} (h : TableWellFormed s i) {j k : Nat}
    (hj : j < tdirCount s.tdir[i]) (hk : k < tdirCount s.tdir[i]) (hjk : j ≠ k) :
    (litEntry s.tdir[i] j (symbolWord s i j)).codeLA.toNat ≠ (litEntry s.tdir[i] k (symbolWord s i k)).codeLA.toNat := by
  obtain ⟨-, -, hlenj, hcodej⟩ := h.legalWords j hj
  obtain ⟨-, -, hlenk, hcodek⟩ := h.legalWords k hk
  rw [litEntry_codeLA _ _ hlenj hcodej, litEntry_codeLA _ _ hlenk hcodek]
  rcases Nat.le_total (symbolLen s i j) (symbolLen s i k) with hle | hle
  · exact leftAligned_ne hle (hlenk.trans (by decide)) (h.prefixFree j hj k hk hjk hle)
  · exact (leftAligned_ne hle (hlenj.trans (by decide)) (h.prefixFree k hk j hj hjk.symm hle)).symm

theorem pairwise_builtEntries {s : State} {i : Fin 34} (h : TableWellFormed s i) :
    (builtEntries s.lit s.tdir[i]).Pairwise fun x y => y.codeLA.toNat < x.codeLA.toNat := by
  have hsorted : (builtEntries s.lit s.tdir[i]).Pairwise fun x y => y.codeLA.toNat ≤ x.codeLA.toNat :=
    haveI : Std.Total fun x y : Entry => y.codeLA.toNat ≤ x.codeLA.toNat := ⟨fun _ _ => Nat.le_total _ _⟩
    haveI : IsTrans Entry fun x y : Entry => y.codeLA.toNat ≤ x.codeLA.toNat := ⟨fun _ _ _ hxy hyz => hyz.trans hxy⟩
    List.pairwise_insertionSort _ _
  have hdistinct : (builtEntries s.lit s.tdir[i]).Pairwise fun x y => x.codeLA.toNat ≠ y.codeLA.toNat := by
    rw [builtEntries, (List.perm_insertionSort _ _).pairwise_iff Ne.symm, List.pairwise_iff_getElem]
    intro j k hj hk hjk
    simp only [List.length_mapIdx, length_litTable] at hj hk
    simp only [List.getElem_mapIdx, litTable, List.getElem_map, List.getElem_range]
    exact litEntry_codeLA_ne h hj hk hjk.ne
  exact hsorted.imp₂ (fun _ _ hle hne => lt_of_le_of_ne hle hne.symm) hdistinct

/-! The length class (41_huffman.md R155). -/

/-- LEN is at most the largest, and some symbol has the largest. -/
theorem maxLen_spec {s : State} {i : Fin 34} (hp : present s i) (h : TableWellFormed s i) :
    (∀ j < tdirCount s.tdir[i], symbolLen s i j ≤ maxLen s.lit s.tdir[i]) ∧
      ∃ j < tdirCount s.tdir[i], symbolLen s i j = maxLen s.lit s.tdir[i] := by
  obtain ⟨hmem, hle⟩ := List.max?_eq_some_iff.1
    (List.max?_cons' (x := 0) (xs := (litTable s.lit s.tdir[i]).map litLen))
  have hbound (j : Nat) (hj : j < tdirCount s.tdir[i]) : symbolLen s i j ≤ maxLen s.lit s.tdir[i] :=
    hle _ (List.mem_cons_of_mem _ (List.mem_map_of_mem ((mem_litTable s i _).2 ⟨j, hj, rfl⟩)))
  refine ⟨hbound, ?_⟩
  rcases List.mem_cons.1 hmem with h0 | hmem
  · obtain ⟨-, hpos, -⟩ := h.legalWords 0 hp
    have hmax : maxLen s.lit s.tdir[i] = 0 := h0
    have := hbound 0 hp
    omega
  · obtain ⟨w, hw, hlen⟩ := List.mem_map.1 hmem
    obtain ⟨j, hj, rfl⟩ := (mem_litTable s i w).1 hw
    exact ⟨j, hj, hlen⟩

theorem tclsFor_present {lit : Ram} {d : BitVec 25} (hd : 0 < tdirCount d) (hm : maxLen lit d ≤ 14) :
    (tclsFor lit d).toNat = 4 * maxLen lit d + if maxLen lit d ≤ 5 then 1 else if maxLen lit d ≤ 10 then 2 else 3 := by
  rw [tclsFor, if_neg (by omega)]
  dsimp only
  rw [BitVec.toNat_ofNat, Nat.mod_eq_of_lt]
  split
  · omega
  · split <;> omega

theorem tclsFor_absent {lit : Ram} {d : BitVec 25} (hd : tdirCount d = 0) : tclsFor lit d = 0 := if_pos hd

/-! BUILD. -/

theorem noOverlap_of_wellFormed {s : State} (h : LiteralsWellFormed s) : NoOverlap s :=
  fun i i' hp hp' hx => (h i hp).overlap i' hp' hx

/-- A successful BUILD runs the fold over the directory (41_huffman.md R159). -/
theorem build_of_wellFormed {s : State} (h : LiteralsWellFormed s) :
    build s = { (List.finRange 34).foldl buildOne s with
      status := { ((List.finRange 34).foldl buildOne s).status with tablesReady := true, errTable := false } } := by
  rw [build, (buildBad_none_iff s).2 h]

/-- BUILD reads the directory and LIT only. -/
theorem literalsWellFormed_legal {s : State} (h : LiteralsWellFormed s) : LiteralsWellFormed (legal s) :=
  (buildBad_none_iff (legal s)).1 ((buildBad_none_iff s).2 h)

/-- TAB from BASE on holds the bytes of the table's entries, so it holds the entries. -/
theorem tabEntries_eq {lit tab : Ram} {d : BitVec 25}
    (h : ∀ k, (hk : k < (builtBytes lit d).length) → ramByte .tab tab (8 * tdirBase d + k) = (builtBytes lit d)[k]) :
    ((List.range (tdirCount d)).map fun j => tabEntry tab (tdirBase d + j)) = builtEntries lit d := by
  refine List.ext_getElem (by simp) fun j _ hj => ?_
  rw [List.getElem_map, List.getElem_range]
  exact tabEntry_of_bytes tab _ j _ hj h

/-- Settles O4: BUILD is the fold of `buildOne`, and each table it leaves is `builtEntries` with `tclsFor`. -/
theorem buildTables : Obligations.BuildTables := by
  intro s hs
  obtain ⟨-, -, htcls, hbytes, houtside⟩ :=
    buildFold_spec (legal s) (noOverlap_of_wellFormed (literalsWellFormed_legal hs)) (List.finRange 34)
  obtain ⟨tab, tcls, hfold, -⟩ := buildFold_frame (List.finRange 34) (legal s)
  have hbuild := build_of_wellFormed (literalsWellFormed_legal hs)
  rw [hfold] at htcls hbytes houtside hbuild
  refine ⟨_, congrArg Host.Outcome.next hbuild, rfl, fun i hi => ?_, fun i hi => ?_, fun i hi => ?_, fun i hi j hj => ?_,
    houtside, fun sp a hsp => ?_⟩
  · exact (htcls i (List.mem_finRange i)).trans (tclsFor_absent (Nat.eq_zero_of_not_pos hi))
  · obtain ⟨hmax, j, hj, hjmax⟩ := maxLen_spec hi (hs i hi)
    refine ⟨maxLen s.lit s.tdir[i], hmax, ⟨j, hj, hjmax⟩, ?_⟩
    obtain ⟨-, -, hlen, -⟩ := (hs i hi).legalWords j hj
    exact (congrArg BitVec.toNat (htcls i (List.mem_finRange i))).trans (tclsFor_present hi (hjmax ▸ hlen))
  · have hes : ((List.range (tdirCount s.tdir[i])).map fun j => tabEntry tab (tdirBase s.tdir[i] + j)) =
        builtEntries s.lit s.tdir[i] := tabEntries_eq (hbytes i (List.mem_finRange i) hi)
    intro es
    rw [show es = builtEntries s.lit s.tdir[i] from hes]
    refine ⟨pairwise_builtEntries (hs i hi), fun x => (mem_builtEntries s i x).trans (exists_congr fun j => ?_)⟩
    refine and_congr_right fun hj => ?_
    obtain ⟨-, -, hlen, hcode⟩ := (hs i hi).legalWords j hj
    obtain ⟨-, hcount⟩ := (hs i hi).inLit
    exact litEntry_eq_iff _ (by omega) hlen hcode x
  · exact tabByte_of_bytes tab _ j 5 (builtEntries s.lit s.tdir[i]) (by simpa using hj) (by decide)
      (hbytes i (List.mem_finRange i) hi)
  · cases sp with
    | tab => exact absurd rfl hsp
    | lit | out | stream => rfl

end Sys2Proof.Machine
end

section
/-! SUPPORT. The bit reader over the stream (40_bitreader.md R131): the bits it sees, the bytes they stand in, and the number a
RAW field of readable bits decodes to. -/

namespace Sys2Proof.Machine

/-- A RAW field whose n bits can be read decodes to the number they write, the first the most significant. -/
theorem decodeField_raw_of_bits {n : Nat} (mk : Nat → Instr) (tables : Layout → Fin 17 → Table) {bits : List StreamBit}
    {b : Nat → Bool} (h1 : 1 ≤ n) (h20 : n ≤ 20) (h : ∀ i < n, bits[i]? = some (some (b i))) :
    ∃ v, v < 2 ^ n ∧ decodeField (.raw n mk) tables bits = .ok (mk v) ∧ ∀ i < n, v.testBit (n - 1 - i) = b i := by
  obtain ⟨v, hread, hlt, hbit⟩ := readBits_ok n 0 0 bits b h
  refine ⟨v, hlt, ?_, hbit⟩
  rw [decodeField, decodeRaw, if_neg (by omega), hread, Nat.zero_mul, Nat.zero_add, Except.map]

/-- A bit of a readable word is read, whatever the host did to STREAM. -/
theorem streamBit_eq_bitValue {s : State} {p : Nat} (hf : wordFails s (p / 32) = false) :
    streamBit s p = some (bitValue s p) := by
  rw [streamBit, hf, if_neg Bool.false_ne_true]

/-- While STREAM is unchanged, stream bit p stands in byte (31 - p mod 32) div 8 of its word (20_memory.md R75). -/
theorem bitValue_eq_byteAt {s : State} (hd : s.streamDirty = none) (p : Nat) :
    bitValue s p =
      (byteAt s .stream (s.latched.hdrOff.toNat + 4 * (p / 32) + (31 - p % 32) / 8)).getLsbD ((31 - p % 32) % 8) := by
  rw [byteAt_eq_ramByte, bitValue, hd]
  exact ramWord_getLsbD .stream s.stream _ (31 - p % 32) (by omega)

/-- Settles O41: the reader sees n readable bits at BP, and each stands in the byte `bitValue_eq_byteAt` names. -/
theorem rawFieldValue : Obligations.RawFieldValue := by
  intro s n mk h1 h20 hread
  have hbits : ∀ i < n, (upcoming s 20)[i]? = some (some (bitValue s (s.dec.bp.toNat + i))) := fun i hi => by
    rw [upcoming_getElem? s 20 i (by omega), streamBit_eq_bitValue (hread i hi)]
  obtain ⟨v, hlt, hdec, hbit⟩ := decodeField_raw_of_bits mk (builtTable s) h1 h20 hbits
  exact ⟨v, hlt, hdec, fun hd i hi => (hbit i hi).trans (bitValue_eq_byteAt hd _)⟩

end Sys2Proof.Machine
end

section
/-! SUPPORT. HufDec (41_huffman.md R160, R164 to R166): what it reads from the window, and how a field it cannot decode ends the
command. -/

namespace Sys2Proof

/-! The window. -/

/-- The first n bits of a longer window are the window of n bits (40_bitreader.md R133). -/
theorem peekBits_shiftRight (n k v : Nat) (bits : List StreamBit) : peekBits (n + k) v bits >>> k = peekBits n v bits := by
  induction n generalizing v bits with
  | zero =>
    obtain ⟨x, hx, hlt, -⟩ := peekBits_spec k v bits
    rw [Nat.zero_add, hx, peekBits, Nat.shiftRight_eq_div_pow, Nat.add_comm, Nat.add_mul_div_right x v (by positivity),
      Nat.div_eq_of_lt hlt, Nat.zero_add]
  | succ n ih =>
    rw [show n + 1 + k = n + k + 1 by omega]
    cases bits with
    | nil => exact ih (2 * v) []
    | cons b bs => exact ih (2 * v + (b.getD false).toNat) bs

/-- Whether a codeword starts the window depends on LEN bits of it only (41_huffman.md R160). -/
theorem entryMatches_peekBits {w : Nat} {e : Entry} (h : e.len.toNat ≤ w) (bits : List StreamBit) :
    entryMatches w (peekBits w 0 bits) e = (peekBits e.len.toNat 0 bits == e.code) := by
  have hpeek := peekBits_shiftRight e.len.toNat (w - e.len.toNat) 0 bits
  rw [show e.len.toNat + (w - e.len.toNat) = w by omega] at hpeek
  rw [entryMatches, hpeek]

/-- Settles O45: in windows of both widths the same entries match, so the search finds the same one. -/
theorem widthIndependence : Obligations.WidthIndependence := by
  intro es bits a b w w' ha hb hlen
  have hfind : es.find? (entryMatches w (peekBits w 0 bits)) = es.find? (entryMatches w' (peekBits w' 0 bits)) := by
    refine List.find?_congr fun e he => ?_
    obtain ⟨-, hw, hw'⟩ := hlen e he
    rw [entryMatches_peekBits hw, entryMatches_peekBits hw']
  simp only [decodeHuf, ha, hb, hfind]

/-! The value of a field. -/

/-- The widest window has 14 bits (41_huffman.md R163). -/
theorem classWidth_le {c : BitVec 2} {w : Nat} (h : classWidth c = some w) : w ≤ 14 := by
  unfold classWidth at h
  split at h <;> cases h <;> decide

/-- Settles O42: a codeword of at most 14 bits lies within the upcoming bits the reader sees. -/
theorem hufFieldValue : Obligations.HufFieldValue := by
  intro s l t mk w e hw he hlen hpf hc hbits
  have h14 := classWidth_le hw
  obtain ⟨-, hew⟩ := hlen e he
  refine decodeField_huf mk (decodeHuf_of_bits hw he (fun x hx => (hlen x hx).2) hpf hc fun j hj => ?_)
  rw [Machine.upcoming_getElem? s 20 j (by omega), hbits j hj]

/-! No table, or no codeword. -/

theorem decodeHuf_absent {t : Table} (h : t.cls = 0) (bits : List StreamBit) : decodeHuf t bits = .error .tableAbsent := by
  rw [decodeHuf, h]
  rfl

theorem decodeHuf_noCodeword {t : Table} {w : Nat} {bits : List StreamBit} (hw : classWidth t.cls = some w)
    (h : ∀ e ∈ t.entries, entryMatches w (peekBits w 0 bits) e = false) : decodeHuf t bits = .error .noCodeword := by
  have hfind : t.entries.find? (entryMatches w (peekBits w 0 bits)) = none :=
    List.find?_eq_none.2 fun e he => by rw [h e he]; exact Bool.false_ne_true
  simp only [decodeHuf, hw, hfind]

end Sys2Proof

namespace Sys2Proof.Machine

/-! Raising, over a status word. -/

/-- An error that leaves the stream open, raised under the status word st: it writes what R340 lists and keeps the latched
copies, DecoderState and the frame. -/
theorem raised_of_raise {k : RaiseKind} (hk : raiseFatal k = false) (info : Nat) (s : State) (st : Status) :
    raised s (raise k info { s with status := st }) (raiseStatus k st) info ∧
      (raise k info { s with status := st }).latched = s.latched ∧
      (raise k info { s with status := st }).dec = s.dec ∧ (raise k info { s with status := st }).frame = s.frame := by
  have hbytes : ∀ sp a, sp ≠ .out → byteAt (raise k info { s with status := st }) sp a = byteAt s sp a :=
    fun sp a hsp => raise_byteAt k info { s with status := st } sp a hsp
  cases k with
  | readError | tableInvalidParse | resRange => cases hk
  | badVersion | tableInvalidBuild | badDescriptor =>
    exact ⟨⟨rfl, rfl, rfl, rfl, rfl, rfl, rfl, rfl, hbytes⟩, rfl, rfl, rfl⟩

/-- A fatal error closes the stream (60_exceptions.md R340 (5)). -/
theorem raisedFatal_of_raise {k : RaiseKind} (hk : raiseFatal k = true) (info : Nat) (s : State) :
    raisedFatal s (raise k info s) (raiseStatus k s.status) info := by
  have hbytes := fun sp a => raise_byteAt k info s sp a
  refine ⟨s.status.frameValid, s.status.eos, s.status.warm, ?_⟩
  cases k with
  | badVersion | tableInvalidBuild | badDescriptor => cases hk
  | readError | tableInvalidParse | resRange => exact ⟨rfl, rfl, rfl, rfl, rfl, rfl, rfl, rfl, hbytes⟩

/-- A field that cannot be read is the step's error (40_bitreader.md R135, 41_huffman.md R165). -/
theorem step_of_fetch_error {s : State} {f : Field} {e : DecodeError} (hn : noActDue s) (hb : s.status.busy = true)
    (hf : fieldAt s = some f) (he : fetch s f = .error e) : step s = fetchError f e s := by
  rw [step_of_noActDue s hn hb, blockStep_field s f hf]
  simp only [fieldStep, hf, he]

/-- Settles O44: HufDec answers one of the two errors, and the step raises TableInvalid for either. -/
theorem tableInvalidRaised : Obligations.TableInvalidRaised := by
  intro s l t mk hn hb hf htab
  have hstep : step s = .next (raise .tableInvalidParse (tableNumber l t) s) := by
    rcases htab with habs | ⟨w, hw, hno⟩
    · have he : fetch s (.huf l t mk) = .error .tableAbsent := by
        rw [fetch, decodeField, decodeHuf_absent habs, Except.map]
      exact step_of_fetch_error hn hb hf he
    · have he : fetch s (.huf l t mk) = .error .noCodeword := by
        rw [fetch, decodeField, window, decodeHuf_noCodeword hw hno, Except.map]
      exact step_of_fetch_error hn hb hf he
  exact ⟨_, hstep, raisedFatal_of_raise rfl _ s, raise_latched _ _ s⟩

end Sys2Proof.Machine
end

section
/-! SUPPORT. BUILD as a whole: which literal tables it accepts (41_huffman.md R152), and what a second BUILD does (R156). -/

namespace Sys2Proof.Machine

/-- The table at place i of TDIR is table i mod 17 of layout i div 17 (10_state.md R66, 60_exceptions.md R335). -/
theorem tableNumber_at (i : Fin 34) : tableNumber (layoutAt i) (idAt i) = 256 * (i.val / 17) + i.val % 17 := by
  revert i
  decide

/-- The raise of a BUILD whose first failing table is at place i. -/
theorem build_of_bad {s : State} {i : Fin 34} (h : buildBad s = some i) :
    build s = raise .tableInvalidBuild (256 * (i.val / 17) + i.val % 17) { s with status.tablesReady := false } := by
  rw [build, h, ← tableNumber_at]

/-- Settles O3: the checks accept (`buildTables`), or `buildBad` is the first table that fails, and BUILD raises for it. -/
theorem buildChecks : Obligations.BuildChecks := by
  refine ⟨fun s hs => ?_, fun s i hp hw hfirst => ?_⟩
  · obtain ⟨t, ht, hframe, -⟩ := buildTables s hs
    exact ⟨t, ht, congrArg State.status hframe⟩
  · have hbad : buildBad (legal s) = some i := buildBad_eq_some s i hp hw hfirst
    exact ⟨_, congrArg Host.Outcome.next (build_of_bad hbad),
      raised_of_raise (k := .tableInvalidBuild) rfl _ s { s.status with errCmd := false, tablesReady := false }⟩

/-- A BUILD that ends with TABLES_READY = 1 found every table well formed. -/
theorem wellFormed_of_tablesReady {s t : State} (h : exec .build s = .next t) (hr : t.status.tablesReady = true) :
    LiteralsWellFormed s := by
  cases h
  rcases build_cases (legal s) with ⟨i, -, hb⟩ | ⟨hbad, -⟩
  · rw [hb, raise_tablesReady] at hr
    cases hr
  · exact (buildBad_none_iff s).1 hbad

/-- TCLS and TAB of t are what BUILD writes for the literals and the directory: the length class of every table, the bytes of
every present one (41_huffman.md R153 to R155). -/
structure HoldsTables (lit : Ram) (tdir : Vector (BitVec 25) 34) (t : State) : Prop where
  tcls  : ∀ i : Fin 34, t.tcls[i] = tclsFor lit tdir[i]
  bytes : ∀ i : Fin 34, 0 < tdirCount tdir[i] → ∀ k, (hk : k < (builtBytes lit tdir[i]).length) →
    byteAt t .tab (8 * tdirBase tdir[i] + k) = (builtBytes lit tdir[i])[k]

/-- A successful BUILD from s to t keeps the directory and the literals, writes their tables, and leaves the rest of TAB
(41_huffman.md R159). -/
structure BuiltFrom (s t : State) : Prop where
  tdir    : t.tdir = s.tdir
  lit     : t.lit = s.lit
  tables  : HoldsTables s.lit s.tdir t
  outside : ∀ a, (∀ i, present s i → ¬ (8 * tdirBase s.tdir[i] ≤ a ∧ a < 8 * (tdirBase s.tdir[i] + tdirCount s.tdir[i]))) →
    byteAt t .tab a = byteAt s .tab a

theorem builtFrom_of_build {s t : State} (hs : LiteralsWellFormed s) (h : exec .build s = .next t) : BuiltFrom s t := by
  have hwf := literalsWellFormed_legal hs
  have ht : build (legal s) = t := Host.Outcome.next.inj h
  obtain ⟨-, -, htcls, hbytes, houtside⟩ :=
    buildFold_spec (legal s) (noOverlap_of_wellFormed hwf) (List.finRange 34)
  obtain ⟨tab, tcls, hfold, -⟩ := buildFold_frame (List.finRange 34) (legal s)
  rw [build_of_wellFormed hwf, hfold] at ht
  rw [hfold] at htcls hbytes houtside
  subst ht
  exact ⟨rfl, rfl, ⟨fun i => htcls i (List.mem_finRange i), fun i => hbytes i (List.mem_finRange i)⟩, houtside⟩

/-- The checks read the directory and the literals only. -/
theorem BuiltFrom.wellFormed {s t : State} (h : BuiltFrom s t) (hs : LiteralsWellFormed s) : LiteralsWellFormed t := by
  rw [← buildBad_none_iff] at hs ⊢
  have hok : ∀ i, tableOk t i = tableOk s i := fun i => by simp only [tableOk, h.tdir, h.lit]
  simpa only [buildBad, h.tdir, hok] using hs

/-- A BUILD over tables that stand in TCLS and TAB already changes no byte of them (41_huffman.md R156). -/
theorem BuiltFrom.eq_of_holdsTables {t u : State} (h : BuiltFrom t u) (ht : HoldsTables t.lit t.tdir t) :
    u.tcls = t.tcls ∧ ∀ a, byteAt u .tab a = byteAt t .tab a := by
  refine ⟨Vector.ext fun i hi => (h.tables.tcls ⟨i, hi⟩).trans (ht.tcls ⟨i, hi⟩).symm, fun a => ?_⟩
  by_cases ha : ∃ i, present t i ∧ 8 * tdirBase t.tdir[i] ≤ a ∧ a < 8 * (tdirBase t.tdir[i] + tdirCount t.tdir[i])
  · obtain ⟨i, hp, hlo, hhi⟩ := ha
    obtain ⟨k, rfl⟩ := Nat.exists_eq_add_of_le hlo
    have hk : k < (builtBytes t.lit t.tdir[i]).length := by
      rw [length_builtBytes]
      omega
    exact (h.tables.bytes i hp k hk).trans (ht.bytes i hp k hk).symm
  · exact h.outside a fun i hp hx => ha ⟨i, hp, hx⟩

/-- Settles O5: the first BUILD leaves the tables of the very directory and literals the second one reads. -/
theorem buildTwice : Obligations.BuildTwice := by
  intro s t u ht hr hu
  have hs := wellFormed_of_tablesReady ht hr
  have hst := builtFrom_of_build hs ht
  have hwt := hst.wellFormed hs
  have htables : HoldsTables t.lit t.tdir t := by
    rw [hst.lit, hst.tdir]
    exact hst.tables
  obtain ⟨htcls, htab⟩ := (builtFrom_of_build hwt hu).eq_of_holdsTables htables
  obtain ⟨v, hv, hframe, -⟩ := buildTables t hwt
  cases hu.symm.trans hv
  exact ⟨htcls, htab, congrArg (fun x => x.status.tablesReady) hframe⟩

end Sys2Proof.Machine
end

section
/-! SUPPORT. Fields that write coefficients, and the field a resolution selects (42_frame_parser.md R189 to R193). -/

namespace Sys2Proof.Machine

/-! One coefficient. -/

theorem onlyDecoder_of_update (s : State) (d : Decoder) (f : Frame) : onlyDecoder s { s with dec := d, frame := f } :=
  ⟨rfl, fun _ _ => rfl⟩

theorem quantField_setQ_advance (s : State) (m : Nat) (c : Chan) (n : Subband) (k : Slot) (x : BitVec 32) :
    quantField s (setQ (advance s m) c n k x) m :=
  ⟨rfl, rfl, onlyDecoder_of_update s _ _⟩

theorem onlyCoefs_setQ_advance (s : State) (m : Nat) (c : Chan) (n : Subband) (k : Slot) (x : BitVec 32) :
    onlyCoefs s (setQ (advance s m) c n k x) c n [k.val] := fun _ _ _ h =>
  qOf_setQ_other (advance s m) (h.imp_right fun hk e => hk (by simp [e])) x

/-! The fixed-width coefficients (42_frame_parser.md R193). -/

theorem exec_qfix (i : Fin 10) (c : Chan) (n : Subband) (k : Slot) (f : Nat) (s : State) :
    exec (qfix i c n k f) s = .next (fixedField i c n k f s) := by
  fin_cases i <;> rfl

theorem isRaw_qfix (v : Bool) (i : Fin 10) (c : Chan) (n : Subband) (k : Slot) (f : Nat) :
    isRaw v (qfix i c n k f) (resBits i) := by
  fin_cases i <;> exact ⟨_, rfl⟩

theorem resBits_le (i : Fin 10) : resBits i ≤ 20 := (Config.resBitsPred i).isLt

/-- Field and offset are below 2^20, so their difference fits Q (30_encoding.md R114). -/
theorem fixedCoef_toInt {i : Fin 10} {f : Nat} (hf : f < 2 ^ resBits i) :
    (fixedCoef i f).toInt = (f : Int) - (Config.dOff i).toNat := by
  have hfield : f < 2 ^ 20 := hf.trans_le (Nat.pow_le_pow_right (by decide) (resBits_le i))
  have hoff : (Config.dOff i).toNat < 2 ^ 20 := (Config.dOff i).isLt
  rw [fixedCoef, dOff, BitVec.toInt_ofInt_eq_self (by decide) (by omega) (by omega)]

/-- Settles O13: each of the ten fields is `fixedField`, one coefficient written. -/
theorem qfixResult : Obligations.QfixResult := by
  intro i c n k f s v hf
  refine ⟨isRaw_qfix v i c n k f, _, exec_qfix i c n k f s, quantField_setQ_advance s _ c n k _, ?_,
    onlyCoefs_setQ_advance s _ c n k _⟩
  rw [fixedField, qOf_setQ_self, fixedCoef_toInt hf]

/-! The fields of zero width (42_frame_parser.md R191, R192). -/

/-- The last of k + 1 draws starts where k draws end. -/
theorem prngAfter_succ (k : Nat) (p : Prng) : prngAfter (k + 1) p = (Config.noiseQ (prngAfter k p)).1 := by
  induction k generalizing p with
  | zero => rfl
  | succ k ih => exact ih (Config.noiseQ p).1

/-- Settles O14: the generator before draw k is `prngAfter k`, and QSKIP answers the state itself. -/
theorem zeroWidthFields : Obligations.ZeroWidthFields := by
  intro c n s
  refine ⟨⟨rfl, rfl⟩, _, fun k => prngAfter k s.dec.prng, rfl, rfl, rfl, fun k => ⟨prngAfter_succ _ _, ?_⟩, rfl, rfl,
    onlyDecoder_of_update s _ _, fun d m h => bankGet_bankSet_other _ h _⟩
  simp [qOf, noiseAt]

/-! The field a resolution selects (42_frame_parser.md R190). -/

theorem toNat_of_toInt_eq {r : BitVec 8} {m : Nat} (h : r.toInt = m) : r.toNat = m := by
  rw [BitVec.toInt_eq_toNat_cond] at h
  split at h <;> omega

theorem coefField_zero {s : State} {c : Chan} {n : Subband} (h : (resOf s c n).toInt = 0) (k : Slot) :
    coefField s c n k = some (.zero (.qskip c n)) := by
  have hr : (resOf s c n).toNat = 0 := toNat_of_toInt_eq h
  cases hl : s.latched.layout <;> simp [coefField, hl, hr]

theorem coefField_noise {s : State} {c : Chan} {n : Subband} (h : (resOf s c n).toInt = -1) (k : Slot) :
    coefField s c n k = some (.zero (.qnoise c n)) := by
  have hr : (resOf s c n).toNat = 255 := by
    rw [BitVec.toInt_eq_toNat_cond] at h
    split at h <;> omega
  cases hl : s.latched.layout <;> simp [coefField, hl, hr]

/-- The symbol read at coefficient k of resolution r + 1: in layout B a bundle at resolutions 1 and 2, else one
coefficient. -/
def quantSymbol (l : Layout) (r : Fin 7) (c : Chan) (n : Subband) (k : Slot) (e : Entry) : Instr :=
  match l, r with
  | .a, r => symbolA r c n k e
  | .b, 0 => .q1B c n ⟨k.val / 3, by omega⟩ e
  | .b, 1 => .q2B c n ⟨k.val / 2, by omega⟩ e
  | .b, ⟨r + 2, h⟩ => symbolB ⟨r, by omega⟩ c n k e

theorem coefField_symbol {s : State} {c : Chan} {n : Subband} {r : Fin 7} (h : (resOf s c n).toInt = r.val + 1)
    (k : Slot) : coefField s c n k =
      some (.huf s.latched.layout (tblQ s.run.shape r) (quantSymbol s.latched.layout r c n k)) := by
  have hr : (resOf s c n).toNat = r.val + 1 := toNat_of_toInt_eq (by omega)
  cases hl : s.latched.layout <;> fin_cases r <;> simp [coefField, hl, hr] <;> rfl

theorem coefField_fixed {s : State} {c : Chan} {n : Subband} {i : Fin 10} (h : (resOf s c n).toInt = 8 + i.val)
    (k : Slot) : coefField s c n k = some (.raw (resBits i) (qfix i c n k)) := by
  have hr : (resOf s c n).toNat = 8 + i.val := toNat_of_toInt_eq (by omega)
  cases hl : s.latched.layout <;> fin_cases i <;> simp [coefField, hl, hr] <;> rfl

theorem fieldAt_coef {s : State} {c : Chan} {n : Subband} {k : Slot} (hp : s.run.point = .coef c n k) :
    fieldAt s = coefField s c n k := by
  simp [fieldAt, hp]

/-- Settles O28: at a coefficient the field is `coefField`, by the resolution. -/
theorem readCoefsDispatch : Obligations.ReadCoefsDispatch := by
  intro s c n k hp
  rw [fieldAt_coef hp]
  refine ⟨fun h => coefField_zero h k, fun h => coefField_noise h k, fun r h => ?_, fun i h => coefField_fixed h k⟩
  refine ⟨_, tblQ s.run.shape r, rfl, coefField_symbol h k, fun hl e => by rw [hl]; rfl, fun hl e => ?_⟩
  rw [hl]
  refine ⟨fun hr => ?_, fun hr => ?_, fun r' hr => ?_⟩
  · obtain rfl : r = 0 := Fin.ext hr
    rfl
  · obtain rfl : r = 1 := Fin.ext hr
    rfl
  · rw [show r = ⟨r'.val + 2, by omega⟩ from Fin.ext hr]
    rfl

/-- Settles O24: the selector writes the variant, and the variant picks the table of `coefField_symbol`. -/
theorem shapeResult : Obligations.ShapeResult := by
  intro c n x v s
  refine ⟨⟨_, rfl⟩, ⟨_, rfl⟩, _, rfl, rfl, rfl, fun k r h1 h7 hr => ?_⟩
  have hres : (resOf (setShape (advance s 1) x) c n).toInt = (⟨r - 1, by omega⟩ : Fin 7).val + 1 := by
    refine Eq.trans hr ?_
    dsimp only
    omega
  exact ⟨_, _, rfl, coefField_symbol hres k⟩

end Sys2Proof.Machine
end

section
/-! SUPPORT. ScfSet (42_frame_parser.md R186 to R188): what storing one index writes, and the fields of one subband-channel
after each other. -/

namespace Sys2Proof.Machine

/-! Storing one index. -/

/-- The segments that take the index are the transmitted one and its copies. -/
theorem scfTriple_getElem (i : BitVec 2) (g g' : Segment) (v : BitVec 8) (t : Vector (BitVec 8) 3) :
    (scfTriple i g v t)[g'] = if g' = g ∨ copies i.toNat g g' then v else t[g'] := by
  obtain ⟨i⟩ := i
  fin_cases i <;> fin_cases g <;> fin_cases g' <;> simp [scfTriple]

theorem nextSegment_isNone : ∀ (f : BitVec 2) (g : Segment), transmitted f.toNat g →
    ((nextSegment f g).isNone = true ↔ lastSent f.toNat g) := by
  decide

@[simp] theorem storeScf_keeps_frame (s : State) (c : Chan) (n : Subband) (g : Segment) (v : BitVec 8) :
    (storeScf s c n g v).frame = s.frame := by
  obtain ⟨scf, lastScf, h⟩ := storeScf_frame s c n g v
  rw [h]

/-- `SCF` takes the triple, whichever segment is stored. -/
theorem storeScf_scf (s : State) (c : Chan) (n : Subband) (g : Segment) (v : BitVec 8) :
    (storeScf s c n g v).dec.scf =
      bankSet s.dec.scf c n (scfTriple (bankGet s.frame.scfi c n) g v (bankGet s.dec.scf c n)) := by
  unfold storeScf
  dsimp only
  split <;> rfl

/-- `LastSCF` takes segment 2 after the last transmitted segment. -/
theorem storeScf_lastScf (s : State) (c : Chan) (n : Subband) (g : Segment) (v : BitVec 8) :
    (storeScf s c n g v).dec.lastScf = if (nextSegment (bankGet s.frame.scfi c n) g).isNone then
      bankSet s.dec.lastScf c n (bankGet (storeScf s c n g v).dec.scf c n)[2] else s.dec.lastScf := by
  rw [storeScf_scf, bankGet_bankSet_self]
  unfold storeScf
  dsimp only
  split <;> rfl

theorem storeScf_indexStored {s : State} {c : Chan} {n : Subband} {g : Segment}
    (h : transmitted (bankGet s.frame.scfi c n).toNat g) (v : BitVec 8) :
    indexStored s (storeScf s c n g v) c n g v := by
  have hlast := nextSegment_isNone _ _ h
  have hscf (g' : Segment) := scfTriple_getElem (bankGet s.frame.scfi c n) g g' v (bankGet s.dec.scf c n)
  unfold indexStored
  rw [storeScf_lastScf, storeScf_scf, bankGet_bankSet_self]
  refine ⟨fun g' hg => (hscf g').trans (if_pos hg), fun g' hg => (hscf g').trans (if_neg hg), fun hl => ?_, fun hl => ?_,
    fun d m hd => bankGet_bankSet_other _ hd _, fun d m hd => ?_⟩
  · rw [if_pos (hlast.2 hl), bankGet_bankSet_self]
  · rw [if_neg (mt hlast.1 hl)]
  · split
    · exact bankGet_bankSet_other _ hd _
    · rfl

/-- Segment by segment, what a stored index leaves under indicator f. -/
theorem indexStored.getElem {s t : State} {c : Chan} {n : Subband} {g : Segment} {x : BitVec 8} {f : BitVec 2}
    (h : indexStored s t c n g x) (hf : bankGet s.frame.scfi c n = f) (g' : Segment) :
    (bankGet t.dec.scf c n)[g'] = if g' = g ∨ copies f.toNat g g' then x else (bankGet s.dec.scf c n)[g'] := by
  subst hf
  obtain ⟨hset, hkeep, -⟩ := h
  split
  · exact hset g' ‹_›
  · exact hkeep g' ‹_›

/-- The segment transmitted last is segment 2 or copied by it. -/
theorem lastSent_covers : ∀ (f : BitVec 2) (g : Segment), lastSent f.toNat g →
    (2 : Segment) = g ∨ copies f.toNat g (2 : Segment) := by
  decide

/-- The last index transmitted is that of segment 2, by itself or as its copy, so LastSCF takes it. -/
theorem indexStored.lastScf {s t : State} {c : Chan} {n : Subband} {g : Segment} {x : BitVec 8} {f : BitVec 2}
    (h : indexStored s t c n g x) (hf : bankGet s.frame.scfi c n = f) (hl : lastSent f.toNat g) :
    bankGet t.dec.lastScf c n = x := by
  subst hf
  obtain ⟨hset, -, hlast, -⟩ := h
  exact (hlast hl).trans (hset 2 (lastSent_covers _ g hl))

/-- The three segments in order. -/
theorem toList_segments {α : Type} (t : Vector α 3) :
    t.toList = [t[(0 : Segment)], t[(1 : Segment)], t[(2 : Segment)]] := by
  obtain ⟨⟨l⟩, hl⟩ := t
  match l, hl with
  | [_, _, _], _ => rfl

/-! The fields of one subband-channel. -/

theorem transmitted_zero (f : BitVec 2) : transmitted f.toNat (0 : Segment) := by
  have := f.isLt
  omega

/-- SCFRAW_A stores its six bits and keeps the indicators (43_layout_a.md R214). -/
theorem exec_scfrawA_stored {s : State} {c : Chan} {n : Subband} {g : Segment}
    (h : transmitted (bankGet s.frame.scfi c n).toNat g) (x : BitVec 6) :
    ∃ t, exec (.scfrawA c n g x) s = .next t ∧ t.frame = s.frame ∧ indexStored s t c n g (BitVec.ofNat 8 x.toNat) := by
  rw [BitVec.ofNat_toNat]
  exact ⟨_, rfl, storeScf_keeps_frame _ _ _ _ _, storeScf_indexStored (s := advance s 6) h _⟩

/-- The reference of the model is that of R188. -/
theorem scfRef_eq_referenceOf (s : State) (c : Chan) (n : Subband) (g : Segment) : scfRef s c n g = referenceOf s c n g := by
  fin_cases g <;> rfl

theorem scfDelta_toNat (ref : BitVec 8) (e : Entry) :
    ((scfDelta ref e).toNat : Int) = (ref.toNat + e.value.toInt) % 256 := by
  rw [scfDelta, BitVec.toNat_add, BitVec.toNat_setWidth, BitVec.toInt_eq_toNat_cond]
  split <;> omega

/-- DSCF_A stores the reference plus its delta and keeps the indicators (43_layout_a.md R215). -/
theorem exec_dscfA_stored {s : State} {c : Chan} {n : Subband} {g : Segment}
    (h : transmitted (bankGet s.frame.scfi c n).toNat g) (e : Entry) :
    ∃ t x, exec (.dscfA c n g e) s = .next t ∧ t.frame = s.frame ∧
      (x.toNat : Int) = ((referenceOf s c n g).toNat + e.value.toInt) % 256 ∧ indexStored s t c n g x := by
  refine ⟨_, _, rfl, storeScf_keeps_frame _ _ _ _ _, ?_, storeScf_indexStored (s := consume e s) h _⟩
  rw [scfDelta_toNat, ← scfRef_eq_referenceOf]

/-- Settles O22: the transmitted indices stored one after the other, for each of the four indicators. -/
theorem scfSetRaw : Obligations.ScfSetRaw := by
  intro c n a b d s i ab bb db after
  obtain ⟨t, ht, hst, h0⟩ := exec_scfrawA_stored (s := s) (g := 0) (transmitted_zero (bankGet s.frame.scfi c n)) a
  refine ⟨t, ht, fun hi => ?_, fun hi => ?_, fun hi => ?_, fun hi => ?_⟩
  · have hs : bankGet s.frame.scfi c n = 0 := BitVec.eq_of_toNat_eq hi
    have ht' : bankGet t.frame.scfi c n = 0 := by rw [hst, hs]
    obtain ⟨u, hu, htu, h1⟩ := exec_scfrawA_stored (s := t) (g := 1) (by rw [ht']; decide) b
    have hu' : bankGet u.frame.scfi c n = 0 := by rw [htu, ht']
    obtain ⟨w, hw, huw, h2⟩ := exec_scfrawA_stored (s := u) (g := 2) (by rw [hu']; decide) d
    refine ⟨by rw [ht']; rfl, u, hu, by rw [hu']; rfl, w, hw, by rw [huw, hu']; rfl, ?_, h2.lastScf hu' (by decide)⟩
    simp only [toList_segments, h2.getElem hu', h1.getElem ht', h0.getElem hs]
    rfl
  · have hs : bankGet s.frame.scfi c n = 1 := BitVec.eq_of_toNat_eq hi
    have ht' : bankGet t.frame.scfi c n = 1 := by rw [hst, hs]
    obtain ⟨u, hu, htu, h1⟩ := exec_scfrawA_stored (s := t) (g := 1) (by rw [ht']; decide) b
    refine ⟨by rw [ht']; rfl, u, hu, by rw [htu, ht']; rfl, ?_, h1.lastScf ht' (by decide)⟩
    simp only [toList_segments, h1.getElem ht', h0.getElem hs]
    rfl
  · have hs : bankGet s.frame.scfi c n = 2 := BitVec.eq_of_toNat_eq hi
    have ht' : bankGet t.frame.scfi c n = 2 := by rw [hst, hs]
    obtain ⟨u, hu, htu, h1⟩ := exec_scfrawA_stored (s := t) (g := 2) (by rw [ht']; decide) b
    refine ⟨by rw [ht']; rfl, u, hu, by rw [htu, ht']; rfl, ?_, h1.lastScf ht' (by decide)⟩
    simp only [toList_segments, h1.getElem ht', h0.getElem hs]
    rfl
  · have hs : bankGet s.frame.scfi c n = 3 := BitVec.eq_of_toNat_eq hi
    refine ⟨by rw [hst, hs]; rfl, ?_, h0.lastScf hs (by decide)⟩
    simp only [toList_segments, h0.getElem hs]
    rfl

/-- Settles O23: segment 0 refers to LastSCF, segments 1 and 2 to the one just stored. -/
theorem scfSetDifferential : Obligations.ScfSetDifferential := by
  intro c n e f g s hi
  have hs : bankGet s.frame.scfi c n = 0 := BitVec.eq_of_toNat_eq hi
  obtain ⟨t, x, ht, hst, hx, h0⟩ := exec_dscfA_stored (s := s) (g := 0) (.inl hi) e
  have ht' : bankGet t.frame.scfi c n = 0 := by rw [hst, hs]
  obtain ⟨u, y, hu, htu, hy, h1⟩ := exec_dscfA_stored (s := t) (g := 1) (by rw [ht']; decide) f
  have hu' : bankGet u.frame.scfi c n = 0 := by rw [htu, ht']
  obtain ⟨w, z, hw, -, hz, h2⟩ := exec_dscfA_stored (s := u) (g := 2) (by rw [hu']; decide) g
  have hrefx : referenceOf t c n 1 = x := h0.getElem hs 0
  have hrefy : referenceOf u c n 2 = y := h1.getElem ht' 1
  rw [hrefx] at hy
  rw [hrefy] at hz
  refine ⟨t, u, w, ht, hu, hw, x, y, z, hx, hy, hz, ?_, h2.lastScf hu' (by decide)⟩
  simp only [toList_segments, h2.getElem hu', h1.getElem ht', h0.getElem hs]
  rfl

end Sys2Proof.Machine
end

section
/-! SUPPORT. The forward jump, resolutions out of their domain, and what the ends of the header and of the parse write
(42_frame_parser.md R181, R184, R194, R195). -/

namespace Sys2Proof.Machine

/-! The forward jump (42_frame_parser.md R181). -/

theorem fieldAt_jump {s : State} (hp : s.run.point = .fwdJump ∨ s.run.point = .extraJump) :
    fieldAt s = some (.raw 20 fun x => .fwdjump (.ofNat 20 x)) := by
  rcases hp with hp | hp <;> simp [fieldAt, hp, jumpBits]

/-- Outside the extra frame the field is kept and the frame starts after it. -/
theorem exec_fwdjump {s : State} (h : s.run.extra = false) (j : BitVec 20) :
    exec (.fwdjump j) s = .next { s with
      dec := { s.dec with bp := s.dec.bp + 20 }, frame := { s.frame with fwdJump := j, frameStart := s.dec.bp + 20 } } := by
  have hx : ¬ s.run.extra = true := by simp [h]
  rw [exec, execFwdjump, if_neg hx]
  rfl

/-- Outside the extra frame the jump field counts the frame (47_commands.md R321). -/
theorem sequenceAfter_fwdjump {s : State} (h : s.run.extra = false) (j : BitVec 20) :
    sequenceAfter (.fwdjump j) s =
      { s with dec := { s.dec with frameCtr := s.dec.frameCtr + 1 }, run.point := .res .l 0, phase := .header } := by
  have hx : ¬ s.run.extra = true := by simp [h]
  rw [sequenceAfter, afterJump, if_neg hx]
  rfl

/-- Settles O12: the field at either jump point, then its meaning and the sequencer outside the extra frame. -/
theorem fwdjumpResult : Obligations.FwdjumpResult := fun _ =>
  ⟨fun hp => readsRaw_of_fieldAt (fieldAt_jump hp),
    fun j _ hx => ⟨⟨_, rfl⟩, exec_fwdjump hx j, sequenceAfter_fwdjump hx j⟩⟩

/-! Resolutions out of their domain (42_frame_parser.md R194). -/

/-- A resolution outside its domain raises ResRange, after the bits of its field were consumed. -/
theorem raisedFatal_of_writeRes {r : Int} (hr : r < -1 ∨ 17 < r) (c : Chan) (n : Subband) (m : Nat) (s : State) :
    raisedFatal s (writeRes c n r (advance s m)) { s.status with errRes := true } (256 * chanCode c + n.val) := by
  rcases writeRes_spec c n r (advance s m) with ⟨hlo, hhi, -⟩ | ⟨-, h⟩
  · omega
  · rw [h]
    exact raisedFatal_of_raise rfl (bandNumber c n) (advance s m)

/-- A delta that is no escape writes the resolution of the subband below plus the delta (44_layout_b.md R242). -/
theorem exec_resdB_delta {e : Entry} (he : e.value.toInt ≠ 4) (c : Chan) (n : Subband) (s : State) :
    exec (.resdB c n e) s =
      .next (writeRes c n ((resOf s c (prevBand n)).toInt + e.value.toInt) (advance s e.len.toNat)) :=
  if_neg he

/-- Settles O16: both fields end in `writeRes`. -/
theorem resolutionOutOfRange : Obligations.ResolutionOutOfRange := by
  intro c n e s
  exact ⟨fun hr => ⟨_, rfl, raisedFatal_of_writeRes hr c n e.len.toNat s⟩,
    fun _ he hr => ⟨_, exec_resdB_delta he c n s, raisedFatal_of_writeRes hr c n _ s⟩⟩

/-! MaxUsed (42_frame_parser.md R184). -/

/-- In an ascending list, the fold that keeps the last subband with p ends at the largest one, or at its start. -/
theorem foldl_lastBand (p : Subband → Bool) (l : List Subband) (hl : l.Pairwise (· < ·)) (b : BitVec 5) :
    let v := l.foldl (fun m n => if p n then .ofNat 5 n.val else m) b
    (v = b ∧ ∀ n ∈ l, p n = false) ∨ ∃ n ∈ l, p n = true ∧ v = .ofNat 5 n.val ∧ ∀ m ∈ l, p m = true → m ≤ n := by
  induction l generalizing b with
  | nil => exact .inl ⟨rfl, nofun⟩
  | cons x l ih =>
    obtain ⟨hx, hl⟩ := List.pairwise_cons.1 hl
    rcases ih hl (if p x then .ofNat 5 x.val else b) with ⟨hv, hnone⟩ | ⟨n, hn, hp, hv, hmax⟩
    · cases hpx : p x with
      | false =>
        refine .inl ⟨by simpa [hpx] using hv, ?_⟩
        simpa [hpx] using hnone
      | true =>
        refine .inr ⟨x, List.mem_cons_self, hpx, by simpa [hpx] using hv, ?_⟩
        simpa using fun m hm h => by simp [hnone m hm] at h
    · refine .inr ⟨n, List.mem_cons_of_mem _ hn, hp, hv, ?_⟩
      simpa using ⟨fun _ => (hx n hn).le, hmax⟩

/-- Subband n counts for MaxUsed: it is at most MaxBand and one of its channels is coded. -/
def Counts (s : State) (n : Subband) : Prop :=
  n.val ≤ s.latched.maxBand.toNat ∧ (resOf s .l n ≠ 0 ∨ resOf s .r n ≠ 0)

theorem counts_iff (s : State) (n : Subband) :
    (decide (n.val ≤ s.latched.maxBand.toNat) && (coded s .l n || coded s .r n)) = true ↔ Counts s n := by
  simp [Counts, coded]

/-- MaxUsed is the largest subband that counts, or 0 when none does. -/
theorem maxUsedOf_spec (s : State) :
    (maxUsedOf s = 0 ∧ ∀ n, ¬ Counts s n) ∨
      ∃ n : Subband, Counts s n ∧ n.val = (maxUsedOf s).toNat ∧ ∀ m, Counts s m → m.val ≤ (maxUsedOf s).toNat := by
  rcases foldl_lastBand (fun n => decide (n.val ≤ s.latched.maxBand.toNat) && (coded s .l n || coded s .r n))
    (List.finRange 32) (List.pairwise_lt_finRange 32) 0 with ⟨hv, hnone⟩ | ⟨n, -, hp, hv, hmax⟩
  · exact .inl ⟨hv, fun n hn => by simpa [(counts_iff s n).2 hn] using hnone n (List.mem_finRange n)⟩
  · have hn : n.val = (maxUsedOf s).toNat := by
      rw [show maxUsedOf s = .ofNat 5 n.val from hv, BitVec.toNat_ofNat]
      omega
    exact .inr ⟨n, (counts_iff s n).1 hp, hn, fun m hm => hn ▸ hmax m (List.mem_finRange m) ((counts_iff s m).2 hm)⟩

theorem endHeader_dec (s : State) :
    (endHeader s).dec = { s.dec with maxUsed := maxUsedOf s, maxUsedReg := maxUsedOf s } := by
  rw [endHeader, enterIndicator_dec]

/-- Clearing MS[n] leaves the resolutions, and so MaxUsed, as they are. -/
theorem endsBand_maxUsedOf {s u : State} {n : Subband} {i : Instr} (h : endsBand s n i u) : maxUsedOf u = maxUsedOf s := by
  rcases h with ⟨rfl, -⟩ | ⟨rfl, -⟩ <;> rfl

/-- Settles O30: the field that ends subband MaxBand ends the header, which writes `maxUsedOf` twice. -/
theorem maxUsedComputed : Obligations.MaxUsedComputed := by
  intro s u n i hn hi t
  have hlast : ¬ n.val < u.latched.maxBand.toNat := by
    rw [endsBand_latched hi]
    omega
  have hdec : t.dec = { u.dec with maxUsed := maxUsedOf s, maxUsedReg := maxUsedOf s } := by
    rw [show t = endHeader u from (sequenceAfter_endsBand hi).trans (if_neg hlast), endHeader_dec, endsBand_maxUsedOf hi]
  rw [hdec]
  rcases maxUsedOf_spec s with ⟨hzero, hnone⟩ | ⟨m, ⟨hm, hcoded⟩, hval, hmax⟩
  · exact ⟨rfl, fun k hk hc => absurd ⟨hk, hc⟩ (hnone k), .inl hzero, rfl⟩
  · exact ⟨rfl, fun k hk hc => hmax k ⟨hk, hc⟩, .inr ⟨m, hval, hm, hcoded⟩, rfl⟩

/-! The end of the parse (42_frame_parser.md R195). -/

theorem bitsUsedOf_toNat (s : State) : (bitsUsedOf s).toNat = (s.dec.bp - s.frame.frameStart).toNat % 2 ^ 32 :=
  BitVec.toNat_setWidth _ _

theorem frameValidOf_iff (s : State) : frameValidOf s = true ↔ (bitsUsedOf s).toNat = s.frame.fwdJump.toNat := by
  rw [frameValidOf, beq_iff_eq, ← BitVec.toNat_inj, BitVec.toNat_setWidth_of_le (by decide)]

theorem endChannel_of_last {s : State} {n : Subband} (h : n.val = s.dec.maxUsed.toNat) :
    endChannel .r n s = endParse s := if_neg (by omega)

/-- Settles O35: the field that ends R of subband MaxUsed ends the parse. -/
theorem frameValidation : Obligations.FrameValidation := by
  intro s n i hn hi
  refine ⟨bitsUsedOf s, frameValidOf s, bitsUsedOf_toNat s, frameValidOf_iff s, ?_⟩
  rw [sequenceAfter_endsChannel hi, endChannel_of_last hn]
  rfl

end Sys2Proof.Machine
end

section
/-! SUPPORT. The fields of layout A and their twins in layout B (43_layout_a.md R211 to R224, 44_layout_b.md R244 to R255):
the operand a symbol's value makes, and what each field writes of its register file. -/

namespace Sys2Proof.Machine

/-- Writing an element leaves the rest of the register file. -/
theorem onlyAt_bankSet {α : Type} (b : Bank α) (c : Chan) (n : Subband) (x : α) : onlyAt b (bankSet b c n x) c n :=
  fun _ _ h => bankGet_bankSet_other b h x

/-! Mid/side flags (43_layout_a.md R212, 44_layout_b.md R244). -/

theorem msField_setMs_advance (s : State) (k : Nat) (n : Subband) (m : Bool) :
    msField s (setMs (advance s k) n m) k :=
  ⟨rfl, rfl, onlyDecoder_of_update s _ _⟩

theorem setMs_ms_self (s : State) (n : Subband) (m : Bool) : (setMs s n m).dec.ms[n] = m := by
  simp

theorem setMs_ms_other (s : State) {n k : Subband} (h : k ≠ n) (m : Bool) :
    (setMs s n m).dec.ms[k] = s.dec.ms[k] := by
  have hval : n.val ≠ k.val := fun e => h (Fin.ext e.symm)
  simp [hval]

/-- Settles O17: both flags are one bit that goes to MS[n]. -/
theorem msflagResult : Obligations.MsflagResult := by
  intro n m v s
  exact ⟨⟨_, rfl⟩, ⟨_, rfl⟩, _, rfl, rfl, msField_setMs_advance s 1 n m, setMs_ms_self _ n m,
    fun _ hk => setMs_ms_other (advance s 1) hk m⟩

/-! Resolutions in their domain (43_layout_a.md R211). -/

theorem resField_setRes_advance (s : State) (m : Nat) (c : Chan) (n : Subband) (r : BitVec 8) :
    resField s (setRes (advance s m) c n r) m :=
  ⟨rfl, rfl, onlyDecoder_of_update s _ _⟩

/-- A resolution in its domain is stored as it is, after the bits of its field were consumed. -/
theorem writeRes_advance_of_legal {r : Int} (hlo : -1 ≤ r) (hhi : r ≤ 17) (c : Chan) (n : Subband) (m : Nat) (s : State) :
    resField s (writeRes c n r (advance s m)) m ∧ (resOf (writeRes c n r (advance s m)) c n).toInt = r ∧
      onlyAt s.dec.res (writeRes c n r (advance s m)).dec.res c n := by
  rcases writeRes_spec c n r (advance s m) with ⟨-, -, h, hr⟩ | ⟨hout, -⟩
  · rw [h, resOf_setRes_self]
    exact ⟨resField_setRes_advance s m c n _, hr, onlyAt_bankSet _ c n _⟩
  · omega

/-- Settles O15: RES_A ends in `writeRes`. -/
theorem resAResult : Obligations.ResAResult := by
  intro c n e s v hlo hhi
  exact ⟨⟨_, _, rfl, rfl⟩, _, rfl, writeRes_advance_of_legal hlo hhi c n e.len.toNat s⟩

/-! Scalefactor indicators (30_encoding.md R115). -/

/-- A value that is not negative reads the same with and without sign. -/
theorem toInt_eq_toNat_of_nonneg {w : Nat} {x : BitVec w} (h : 0 ≤ x.toInt) : x.toInt = x.toNat :=
  BitVec.toInt_eq_toNat_of_msb (by simpa [BitVec.msb_eq_toInt] using h)

theorem scfiAIndicator_toNat {e : Entry} (hlo : 0 ≤ e.value.toInt) (hhi : e.value.toInt ≤ 7) :
    ((scfiAIndicator e).toNat : Int) = e.value.toInt / 2 := by
  rw [toInt_eq_toNat_of_nonneg hlo] at hhi ⊢
  rw [scfiAIndicator, BitVec.toNat_setWidth, BitVec.toNat_ushiftRight, Nat.shiftRight_eq_div_pow]
  omega

theorem scfiADiff_iff {e : Entry} (hlo : 0 ≤ e.value.toInt) : scfiADiff e = true ↔ e.value.toInt % 2 = 1 := by
  rw [toInt_eq_toNat_of_nonneg hlo, scfiADiff, BitVec.getLsbD, Nat.testBit_zero, decide_eq_true_iff]
  omega

theorem scfiBIndicator_toNat {e : Entry} (hlo : 0 ≤ e.value.toInt) (hhi : e.value.toInt ≤ 3) :
    ((scfiBIndicator e).toNat : Int) = e.value.toInt := by
  rw [toInt_eq_toNat_of_nonneg hlo] at hhi ⊢
  rw [scfiBIndicator, BitVec.toNat_setWidth]
  omega

/-- Settles O18: SCFI_A splits its value in two, SCFI_B stores it. -/
theorem scfiResult : Obligations.ScfiResult := by
  intro c n e s v hlo
  refine ⟨fun hhi => ⟨⟨_, _, rfl, rfl⟩, _, rfl, ⟨rfl, rfl, onlyDecoder_of_update s _ _⟩, ?_, ?_,
      onlyAt_bankSet _ c n _, onlyAt_bankSet _ c n _⟩,
    fun hhi => ⟨⟨_, _, rfl, rfl⟩, _, rfl, ⟨rfl, rfl, onlyDecoder_of_update s _ _⟩, ?_, rfl, onlyAt_bankSet _ c n _⟩⟩
  · rw [setDflag_frame_scfi, setScfi_frame_scfi, bankGet_bankSet_self, scfiAIndicator_toNat hlo hhi]
  · rw [setDflag_frame_dflag, bankGet_bankSet_self, scfiADiff_iff hlo]
  · rw [setScfi_frame_scfi, bankGet_bankSet_self, scfiBIndicator_toNat hlo hhi]

/-! Scalefactor indices (43_layout_a.md R214, R215, 44_layout_b.md R246, R247). -/

theorem scfField_storeScf_advance (s : State) (m : Nat) (c : Chan) (n : Subband) (g : Segment) (v : BitVec 8) :
    scfField s (storeScf (advance s m) c n g v) m := by
  obtain ⟨scf, lastScf, h⟩ := storeScf_frame (advance s m) c n g v
  rw [h]
  exact ⟨rfl, rfl, onlyDecoder_of_update s _ _⟩

theorem scfField_of_scfrawA {s t : State} {c : Chan} {n : Subband} {g : Segment} {x : BitVec 6}
    (h : exec (.scfrawA c n g x) s = .next t) : scfField s t 6 := by
  cases h
  exact scfField_storeScf_advance s 6 c n g _

theorem scfField_of_dscfA {s t : State} {c : Chan} {n : Subband} {g : Segment} {e : Entry}
    (h : exec (.dscfA c n g e) s = .next t) : scfField s t e.len.toNat := by
  cases h
  exact scfField_storeScf_advance s e.len.toNat c n g _

/-- The raw index of layout B is that of layout A. -/
theorem exec_scfxB_eq (c : Chan) (n : Subband) (g : Segment) (x : BitVec 6) (s : State) :
    exec (.scfxB c n g x) s = exec (.scfrawA c n g x) s := rfl

/-- So is the delta, unless it is the escape. -/
theorem exec_dscfB_eq {e : Entry} (he : e.value.toInt ≠ 8) (c : Chan) (n : Subband) (g : Segment) (s : State) :
    exec (.dscfB c n g e) s = exec (.dscfA c n g e) s := if_neg he

/-- Settles O19: the six bits are stored as SCFRAW_A stores them. -/
theorem scfRawResult : Obligations.ScfRawResult := by
  intro c n g x s v hg
  obtain ⟨t, ht, -, hstored⟩ := exec_scfrawA_stored hg x
  exact ⟨⟨_, rfl⟩, ⟨_, rfl⟩, t, ht, (exec_scfxB_eq c n g x s).trans ht, scfField_of_scfrawA ht, hstored⟩

/-- Settles O20: the delta is stored as DSCF_A stores it. -/
theorem scfDeltaResult : Obligations.ScfDeltaResult := by
  intro c n g e s v hg
  obtain ⟨t, x, ht, -, hx, hstored⟩ := exec_dscfA_stored hg e
  exact ⟨⟨_, _, rfl, rfl⟩, ⟨_, _, rfl, rfl⟩, t, ht, fun he => (exec_dscfB_eq he c n g s).trans ht,
    scfField_of_dscfA ht, x, hx, hstored⟩

/-! Coefficient symbols (43_layout_a.md R218 to R224, 44_layout_b.md R251 to R255). -/

theorem exec_symbolA (r : Fin 7) (c : Chan) (n : Subband) (k : Slot) (e : Entry) (s : State) :
    exec (symbolA r c n k e) s = .next (symbolField c n k e s) := by
  fin_cases r <;> rfl

theorem exec_symbolB (r : Fin 5) (c : Chan) (n : Subband) (k : Slot) (e : Entry) (s : State) :
    exec (symbolB r c n k e) s = .next (symbolField c n k e s) := by
  fin_cases r <;> rfl

theorem isHuf_symbolA (v : Bool) (r : Fin 7) (c : Chan) (n : Subband) (k : Slot) (e : Entry) :
    isHuf v (symbolA r c n k e) .a (3 + 7 * v.toNat + r.val) :=
  ⟨symbolA r c n k, tblQ v r, rfl, by fin_cases r <;> rfl⟩

/-- The symbols of layout B start at resolution 3, two tables after that of resolution 1. -/
theorem isHuf_symbolB (v : Bool) (r : Fin 5) (c : Chan) (n : Subband) (k : Slot) (e : Entry) :
    isHuf v (symbolB r c n k e) .b (5 + 7 * v.toNat + r.val) := by
  refine ⟨symbolB r c n k, tblQ v ⟨r.val + 2, by omega⟩, ?_, by fin_cases r <;> rfl⟩
  dsimp only [tblQ]
  omega

/-- The coefficient is the symbol's value, whatever it is: 16 bits fit Q. -/
theorem coefOf_toInt (e : Entry) : (coefOf e).toInt = e.value.toInt :=
  BitVec.toInt_signExtend_of_le (by decide)

theorem symbolField_writes (c : Chan) (n : Subband) (k : Slot) (e : Entry) (s : State) :
    quantField s (symbolField c n k e s) e.len.toNat ∧ (qOf (symbolField c n k e s) c n k).toInt = e.value.toInt ∧
      onlyCoefs s (symbolField c n k e s) c n [k.val] := by
  refine ⟨quantField_setQ_advance s _ c n k _, ?_, onlyCoefs_setQ_advance s _ c n k _⟩
  rw [symbolField, qOf_setQ_self, coefOf_toInt]

/-- Settles O25: each of the twelve symbols is `symbolField`. -/
theorem symbolCoefficient : Obligations.SymbolCoefficient := by
  intro c n k e s v
  exact ⟨fun r => ⟨isHuf_symbolA v r c n k e, _, exec_symbolA r c n k e s, symbolField_writes c n k e s⟩,
    fun r => ⟨isHuf_symbolB v r c n k e, _, exec_symbolB r c n k e s, symbolField_writes c n k e s⟩⟩

end Sys2Proof.Machine
end

section
/-! SUPPORT. The rest of layout B (44_layout_b.md R241 to R250): the bundles, the resolutions, and the escapes. -/

namespace Sys2Proof.Machine

/-! Several coefficients of one field: one more write adds its coefficient to those that changed. -/

theorem quantField.after_setQ {s t : State} {m : Nat} (h : quantField s t m) (c : Chan) (n : Subband) (k : Slot)
    (x : BitVec 32) : quantField s (setQ t c n k x) m := by
  obtain ⟨hdec, hframe, hstate, hbytes⟩ := h
  exact ⟨hdec, congrArg (fun f : Frame => { f with q := (setQ t c n k x).frame.q }) hframe,
    congrArg (fun u : State => { u with frame := (setQ t c n k x).frame }) hstate, hbytes⟩

theorem onlyCoefs.after_setQ {s t : State} {c : Chan} {n : Subband} {ks : List Nat} (h : onlyCoefs s t c n ks) (k : Slot)
    (x : BitVec 32) : onlyCoefs s (setQ t c n k x) c n (ks ++ [k.val]) := by
  intro d m i hi
  have hk : (d, m) ≠ (c, n) ∨ i ≠ k := hi.imp_right fun hnot e => hnot (by simp [e])
  have hks : (d, m) ≠ (c, n) ∨ i.val ∉ ks := hi.imp_right fun hnot hmem => hnot (List.mem_append_left _ hmem)
  rw [qOf_setQ_other t hk, h d m i hks]

/-! The bundles (44_layout_b.md R249, R250). -/

/-- A digit of a bundle, moved to both sides of 0, fits Q. -/
theorem toInt_ofInt_digit {x : Int} (hlo : -2 ≤ x) (hhi : x ≤ 2) : (BitVec.ofInt 32 x).toInt = x :=
  BitVec.toInt_ofInt_eq_self (by decide) (by omega) (by omega)

/-- The base-3 digits of a value below 27 (30_encoding.md R113). -/
theorem bundle3_toInt {e : Entry} (hlo : 0 ≤ e.value.toInt) (hhi : e.value.toInt ≤ 26) :
    (bundle3 e 0).toInt = e.value.toInt % 3 - 1 ∧ (bundle3 e 1).toInt = e.value.toInt / 3 % 3 - 1 ∧
      (bundle3 e 2).toInt = e.value.toInt / 9 - 1 := by
  refine ⟨toInt_ofInt_digit ?_ ?_, toInt_ofInt_digit ?_ ?_, toInt_ofInt_digit ?_ ?_⟩ <;> rw [entryInt] <;> omega

/-- The base-5 digits of a value below 25 (30_encoding.md R113). -/
theorem bundle5_toInt {e : Entry} (hlo : 0 ≤ e.value.toInt) (hhi : e.value.toInt ≤ 24) :
    (bundle5 e 0).toInt = e.value.toInt % 5 - 2 ∧ (bundle5 e 1).toInt = e.value.toInt / 5 - 2 := by
  refine ⟨toInt_ofInt_digit ?_ ?_, toInt_ofInt_digit ?_ ?_⟩ <;> rw [entryInt] <;> omega

/-- Settles O26: each symbol writes its coefficients one after the other, to slots that differ. -/
theorem bundleResult : Obligations.BundleResult := by
  intro c n e s v hlo
  refine ⟨fun j hhi => ?_, fun j hhi => ?_⟩
  · obtain ⟨h0, h1, h2⟩ := bundle3_toInt hlo hhi
    refine ⟨⟨_, tblQ v 0, rfl, rfl⟩, _, rfl,
      ((quantField_setQ_advance s _ c n _ _).after_setQ c n _ _).after_setQ c n _ _, ?_, ?_, ?_,
      ((onlyCoefs_setQ_advance s _ c n _ _).after_setQ _ _).after_setQ _ _⟩
    · rw [qOf_setQ_other _ (.inr (by simp)), qOf_setQ_other _ (.inr (by simp)), qOf_setQ_self, h0]
    · rw [qOf_setQ_other _ (.inr (by simp)), qOf_setQ_self, h1]
    · rw [qOf_setQ_self, h2]
  · obtain ⟨h0, h1⟩ := bundle5_toInt hlo hhi
    refine ⟨⟨_, tblQ v 1, ?_, rfl⟩, _, rfl, (quantField_setQ_advance s _ c n _ _).after_setQ c n _ _,
      ?_, ?_, (onlyCoefs_setQ_advance s _ c n _ _).after_setQ _ _⟩
    · dsimp only [tblQ]
      omega
    · rw [qOf_setQ_other _ (.inr (by simp)), qOf_setQ_self, h0]
    · rw [qOf_setQ_self, h1]

/-! The resolutions (44_layout_b.md R241 to R243). -/

/-- Four bits are a number from 0 to 15, without sign. -/
theorem setWidth_toInt_of_four_bits (x : BitVec 4) : (x.setWidth 8).toInt = x.toNat := by
  rw [BitVec.toInt_setWidth]
  have := x.isLt
  simp only [Int.bmod]
  omega

/-- The four bits of RES0_B and RESX_B are stored as they are. -/
theorem setRes_four_bits_writes (c : Chan) (n : Subband) (x : BitVec 4) (s : State) :
    resField s (setRes (advance s 4) c n (x.setWidth 8)) 4 ∧
      (resOf (setRes (advance s 4) c n (x.setWidth 8)) c n).toInt = x.toNat ∧
      onlyAt s.dec.res (setRes (advance s 4) c n (x.setWidth 8)).dec.res c n := by
  refine ⟨resField_setRes_advance s 4 c n _, ?_, onlyAt_bankSet _ c n _⟩
  rw [resOf_setRes_self, setWidth_toInt_of_four_bits]

theorem prevBand_eq {n p : Subband} (h : p.val + 1 = n.val) : prevBand n = p :=
  Fin.ext (by simp only [prevBand]; omega)

/-- Settles O27: the raw fields store their bits, and a delta that is no escape ends in `writeRes`. -/
theorem resolutionB : Obligations.ResolutionB := by
  intro c n s v _
  refine ⟨fun x => ⟨⟨_, rfl⟩, ⟨_, rfl⟩, ⟨_, rfl, setRes_four_bits_writes c 0 x s⟩,
    _, rfl, setRes_four_bits_writes c n x s⟩, fun e p hp he hlo hhi => ⟨⟨_, tblHdr, rfl, rfl⟩, _, ?_,
    writeRes_advance_of_legal hlo hhi c n e.len.toNat s⟩⟩
  rw [exec_resdB_delta he, prevBand_eq hp]

/-! The escapes (44_layout_b.md R242, R246). -/

/-- The escape of RESD_B is consumed, and RESX_B of the same subband-channel is next (44_layout_b.md R242, R243). -/
theorem resdB_escape {e : Entry} (he : e.value.toInt = 4) (c : Chan) (n : Subband) (s : State) :
    exec (.resdB c n e) s = .next (advance s e.len.toNat) ∧ sequenceAfter (.resdB c n e) s = enter (.resX c n) s :=
  ⟨if_pos he, if_pos he⟩

/-- The escape of DSCF_B is consumed, and SCFX_B of the same segment is next (44_layout_b.md R246, R247). -/
theorem dscfB_escape {e : Entry} (he : e.value.toInt = 8) (c : Chan) (n : Subband) (g : Segment) (s : State) :
    exec (.dscfB c n g e) s = .next (advance s e.len.toNat) ∧
      sequenceAfter (.dscfB c n g e) s = enter (.scfX c n g) s :=
  ⟨if_pos he, if_pos he⟩

/-- Settles O21: an escape writes nothing, and the point after it is that of the raw field. -/
theorem escapeAnnouncesRaw : Obligations.EscapeAnnouncesRaw := by
  intro c n g e s
  refine ⟨fun _ he => ?_, fun he => ?_⟩
  · obtain ⟨hexec, hseq⟩ := resdB_escape he c n s
    exact ⟨hexec, by rw [hseq, enter_run_point]⟩
  · obtain ⟨hexec, hseq⟩ := dscfB_escape he c n g s
    exact ⟨hexec, by rw [hseq, enter_run_point]⟩

end Sys2Proof.Machine
end

section
/-! SUPPORT. The requantizer (45_requantizer.md R262 to R270): what Y holds after its step, for each case of coding. -/

namespace Sys2Proof.Machine

theorem coded_of_res_ne_zero {s : State} {c : Chan} {n : Subband} (h : resOf s c n ≠ 0) : coded s c n = true :=
  bne_iff_ne.2 h

theorem coded_of_res_zero {s : State} {c : Chan} {n : Subband} (h : resOf s c n = 0) : coded s c n = false :=
  bne_eq_false_iff_eq.2 h

/-! The pair of samples, by the cases of 45_requantizer.md R264 to R268. -/

/-- Left/right coding: each channel for itself, silent when it is not coded (45_requantizer.md R264). -/
theorem yPair_leftRight {s : State} {n : Subband} (hms : s.dec.ms[n] = false) (k : Slot) :
    yPair s k n = (if resOf s .l n = 0 then Config.zero else deq s .l n k,
      if resOf s .r n = 0 then Config.zero else deq s .r n k) := by
  have hsample : ∀ c, (if coded s c n = true then deq s c n k else Config.zero) =
      if resOf s c n = 0 then Config.zero else deq s c n k := by
    intro c
    by_cases h : resOf s c n = 0
    · rw [coded_of_res_zero h, if_neg Bool.false_ne_true, if_pos h]
    · rw [if_pos (coded_of_res_ne_zero h), if_neg h]
  simp only [yPair, hms, Bool.false_and, Bool.false_eq_true, if_false, hsample]

/-- Mid and side coded: their sum and their difference. -/
theorem yPair_midSide {s : State} {n : Subband} (hms : s.dec.ms[n] = true) (hl : resOf s .l n ≠ 0) (hr : resOf s .r n ≠ 0)
    (k : Slot) : yPair s k n =
      (Config.add (deq s .l n k) (deq s .r n k), Config.sub (deq s .l n k) (deq s .r n k)) := by
  simp [yPair, hms, coded_of_res_ne_zero hl, coded_of_res_ne_zero hr]

/-- Mid alone goes to both channels. -/
theorem yPair_midOnly {s : State} {n : Subband} (hms : s.dec.ms[n] = true) (hl : resOf s .l n ≠ 0) (hr : resOf s .r n = 0)
    (k : Slot) : yPair s k n = (deq s .l n k, deq s .l n k) := by
  simp [yPair, hms, coded_of_res_ne_zero hl, coded_of_res_zero hr]

/-- Side alone goes to the left, and negated to the right. -/
theorem yPair_sideOnly {s : State} {n : Subband} (hms : s.dec.ms[n] = true) (hl : resOf s .l n = 0) (hr : resOf s .r n ≠ 0)
    (k : Slot) : yPair s k n = (deq s .r n k, Config.neg (deq s .r n k)) := by
  simp [yPair, hms, coded_of_res_zero hl, coded_of_res_ne_zero hr]

/-- Nothing coded is silent under either coding. -/
theorem yPair_silent {s : State} {n : Subband} (hl : resOf s .l n = 0) (hr : resOf s .r n = 0) (k : Slot) :
    yPair s k n = (Config.zero, Config.zero) := by
  simp [yPair, coded_of_res_zero hl, coded_of_res_zero hr]

/-! The step. -/

theorem step_requant {s : State} (hn : noActDue s) (hb : s.status.busy = true) (hp : s.run.point = .requant) :
    step s = .next (requantStep s) := by
  rw [step_of_noActDue s hn hb, blockStep, hp]

/-- The extra pass restores registers beside Y, so Y is the requantizer's in either frame. -/
theorem requantStep_y (s : State) : (requantStep s).dec.y = (requantize s).dec.y := by
  cases h : s.run.extra <;> simp only [requantStep, h, Bool.false_eq_true, if_true, if_false, enter_dec, restoreSaved]

theorem requantize_writes_y (s : State) : ∃ y, requantize s = { s with dec.y := y } := ⟨_, rfl⟩

/-- Outside the extra pass nothing is restored (46_synthesis.md R298). -/
theorem requantStep_main {s : State} (h : s.run.extra = false) :
    requantStep s = { s with dec.y := (requantStep s).dec.y, run.point := .synth, phase := .synth } := by
  obtain ⟨y, hy⟩ := requantize_writes_y s
  have hstep : requantStep s = enter .synth { s with dec.y := y } := by
    rw [requantStep, h, hy, if_neg Bool.false_ne_true]
  rw [hstep]
  rfl

/-- Every element of Y is written (45_requantizer.md R270). -/
theorem requantStep_samples (s : State) (k : Slot) (n : Subband) :
    ((requantStep s).dec.y.l[k][n], (requantStep s).dec.y.r[k][n]) = yPair s k n := by
  simp [requantStep_y, requantize]

/-- Settles O36: the step is `requantStep`, its samples are `yPair`, one equation per case. -/
theorem requantizeResult : Obligations.RequantizeResult := by
  intro s hn hb hp
  refine ⟨requantStep s, step_requant hn hb hp, requantStep_main, fun k n g hg => ?_⟩
  obtain rfl : g = segmentOf k := Fin.ext hg
  intro d yl yr
  have hy : (yl, yr) = yPair s k n := requantStep_samples s k n
  exact ⟨fun hms => Prod.mk.inj (hy.trans (yPair_leftRight hms k)),
    fun hms hl hr => Prod.mk.inj (hy.trans (yPair_midSide hms hl hr k)),
    fun hms hl hr => Prod.mk.inj (hy.trans (yPair_midOnly hms hl hr k)),
    fun hms hl hr => Prod.mk.inj (hy.trans (yPair_sideOnly hms hl hr k)),
    fun hl hr => Prod.mk.inj (hy.trans (yPair_silent hl hr k))⟩

end Sys2Proof.Machine
end

section
/-! SUPPORT. The synthesis (46_synthesis.md R290 to R302): the samples of a frame, the elements they become in OUT, and the
start and the end of the extra pass (R298). -/

namespace Sys2Proof.Machine

/-! The filterbank (46_synthesis.md R290 to R292). -/

/-- Sample i of channel c of raw, where there is one. -/
def sampleAt (raw : PerChan (List Num)) (c : Chan) (i : Nat) : Num := ((chanGet raw c)[i]?).getD Config.zero

theorem sampleAt_of_getElem? {raw : PerChan (List Num)} {c : Chan} {i : Nat} {x : Num}
    (h : (chanGet raw c)[i]? = some x) : sampleAt raw c i = x := by
  rw [sampleAt, h, Option.getD_some]

theorem getElem?_eq_sampleAt {raw : PerChan (List Num)} {c : Chan} {i : Nat} (h : i < (chanGet raw c).length) :
    (chanGet raw c)[i]? = some (sampleAt raw c i) := by
  rw [sampleAt, List.getElem?_eq_getElem h, Option.getD_some]

/-- The history of channel c before slot k of the frame in Y. -/
def slotHist (s : State) (c : Chan) (k : Nat) : Hist := histAt (chanGet s.dec.hist c) (chanGet s.dec.y c).toList k

theorem histAt_zero (h : Hist) (xs : List (Vector Num 32)) : histAt h xs 0 = h := by
  cases xs <;> rfl

theorem synthFrame_hist (base : Nat) (s : State) (c : Chan) :
    chanGet (synthFrame base s).dec.hist c = (synthChan (chanGet s.dec.hist c) (chanGet s.dec.y c).toList).1 := by
  cases c <;> rfl

/-- The samples below base stay, the new ones follow. -/
theorem synthFrame_raw (base : Nat) (s : State) (c : Chan) :
    chanGet (synthFrame base s).run.raw c =
      (chanGet s.run.raw c).take base ++ (synthChan (chanGet s.dec.hist c) (chanGet s.dec.y c).toList).2 := by
  cases c <;> rfl

theorem synthFrame_raw_length {base : Nat} {s : State} {c : Chan} (h : base ≤ (chanGet s.run.raw c).length) :
    (chanGet (synthFrame base s).run.raw c).length = base + 1152 := by
  rw [synthFrame_raw, List.length_append, List.length_take_of_le h, synthChan_length, Vector.length_toList]

theorem synthFrame_raw_below {base i : Nat} (hi : i < base) {s : State} {c : Chan}
    (h : base ≤ (chanGet s.run.raw c).length) :
    (chanGet (synthFrame base s).run.raw c)[i]? = (chanGet s.run.raw c)[i]? := by
  rw [synthFrame_raw, List.getElem?_append_left (by rw [List.length_take_of_le h]; exact hi),
    List.getElem?_take_of_lt hi]

theorem synthFrame_filtered (base : Nat) (s : State) : filtered s (synthFrame base s) (slotHist s) := by
  refine fun c => ⟨histAt_zero _ _, ?_, fun k => ?_⟩
  · rw [synthFrame_hist, synthChan_hist, Vector.length_toList, slotHist]
  · rw [slotHist, histAt_succ _ _ _ (by rw [Vector.length_toList]; exact k.isLt), Vector.getElem_toList]
    rfl

theorem synthFrame_slotSamples {base : Nat} {s : State} (h : ∀ c, base ≤ (chanGet s.run.raw c).length) :
    slotSamples s (slotHist s) base (sampleAt (synthFrame base s).run.raw) := by
  intro c k j
  have hlen : ((chanGet s.run.raw c).take base).length = base := List.length_take_of_le (h c)
  have hk : k.val < (chanGet s.dec.y c).toList.length := by rw [Vector.length_toList]; exact k.isLt
  apply sampleAt_of_getElem?
  rw [synthFrame_raw, List.getElem?_append_right (by omega), hlen,
    show base + 32 * k.val + j.val - base = 32 * k.val + j.val by omega,
    synthChan_sample _ _ _ _ hk j.isLt, Vector.getElem_toList]
  rfl

/-! The output (46_synthesis.md R300 to R302). -/

/-- The samples lo to hi - 1 all exist. -/
def Available (r : Run) : Prop := ∀ c, r.hi ≤ (chanGet r.raw c).length

/-- The samples lo to hi - 1 of one channel. -/
theorem getElem?_trimmed {r : Run} (h : Available r) (c : Chan) {i : Nat} (hlo : r.lo ≤ i) (hhi : i < r.hi) :
    (((chanGet r.raw c).drop r.lo).take (r.hi - r.lo))[i - r.lo]? = some (sampleAt r.raw c i) := by
  have hc := h c
  rw [List.getElem?_take_of_lt (by omega), List.getElem?_drop, show r.lo + (i - r.lo) = i by omega,
    getElem?_eq_sampleAt (by omega)]

theorem length_trimmed {r : Run} (h : Available r) (c : Chan) :
    (((chanGet r.raw c).drop r.lo).take (r.hi - r.lo)).length = r.hi - r.lo := by
  have hc := h c
  rw [List.length_take_of_le (by rw [List.length_drop]; omega)]

/-- Sample i of channel c is element 2 (i - lo) + c of what is emitted (46_synthesis.md R300). -/
theorem emitted_spec {s : State} (h : Available s.run) :
    (emitted s).length = 2 * (s.run.hi - s.run.lo) ∧
      ∀ c i, s.run.lo ≤ i → i < s.run.hi →
        (emitted s)[2 * (i - s.run.lo) + chanCode c]? = some (c, sampleAt s.run.raw c i) := by
  have hl := length_trimmed h .l
  have hr := length_trimmed h .r
  obtain ⟨hlen, helem⟩ := interleave_spec _ _ (hl.trans hr.symm)
  refine ⟨hlen.trans (by rw [hl]), fun c i hlo hhi => ?_⟩
  obtain ⟨hL, hR⟩ := helem (i - s.run.lo) (by omega)
  have hx := getElem?_trimmed h c hlo hhi
  cases c with
  | l => rwa [(List.getElem_eq_iff _).2 hx] at hL
  | r => rwa [(List.getElem_eq_iff _).2 hx] at hR

/-- What the conversion makes of element (c, x), the dither state going from d to d' (46_synthesis.md R301, R302). -/
def Converts (fixed : Bool) (d d' : Dith) (c : Chan) (x : Num) (w : Word) : Prop :=
  if fixed then d' = (Config.toFixed d c x).1 ∧ w = BitVec.ofInt 32 (Config.toFixed d c x).2
  else d' = d ∧ w = Config.numBits x

theorem converted_length (s : State) : (converted s).2.length = (emitted s).length := by
  unfold converted
  split
  · exact (toFixedAll_spec (emitted s) s.dec.dith).2.1
  · exact List.length_map _

/-- The dither state goes through the elements one by one, or keeps. -/
theorem converted_spec (s : State) : ∃ d : Nat → Dith, d 0 = s.dec.dith ∧ (converted s).1 = d (emitted s).length ∧
    ∀ e c x, (emitted s)[e]? = some (c, x) →
      ∃ w, (converted s).2[e]? = some w ∧ Converts s.latched.outFixed (d e) (d (e + 1)) c x w := by
  cases hf : s.latched.outFixed with
  | true =>
    obtain ⟨hdith, -, helem⟩ := toFixedAll_spec (emitted s) s.dec.dith
    have hconv : converted s = toFixedAll s.dec.dith (emitted s) := if_pos hf
    rw [hconv]
    refine ⟨dithAt s.dec.dith (emitted s), by cases emitted s <;> rfl, hdith, fun e c x hx => ?_⟩
    obtain ⟨hnext, hword⟩ := helem e c x hx
    exact ⟨_, hword, hnext, rfl⟩
  | false =>
    have hconv : converted s = (s.dec.dith, (emitted s).map fun x => Config.numBits x.2) :=
      if_neg (by rw [hf]; exact Bool.false_ne_true)
    rw [hconv]
    refine ⟨fun _ => s.dec.dith, rfl, rfl, fun e c x hx => ⟨_, ?_, rfl, rfl⟩⟩
    rw [List.getElem?_map, hx, Option.map_some]

/-- Element e of words written to OUT from its first byte on (46_synthesis.md R301). -/
theorem wordAt_out_words {s : State} {m : Ram} {ws : List Word} {e : Nat} {w : Word}
    (hout : s.out = ramWrite m 0 (ws.flatMap wordBytes)) (h : ws[e]? = some w) : wordAt s .out (4 * e) w := by
  obtain ⟨he, rfl⟩ := List.getElem?_eq_some_iff.1 h
  have hword := ramWord_ramWrite_words .out m 0 ws e he
  rw [Nat.zero_add, ← hout] at hword
  exact hword ▸ wordAt_ramWord s .out (4 * e)

/-- s with what the filterbank writes: the histories, STATUS and the command's temporaries. -/
def withFilter (s : State) (hist : PerChan Hist) (st : Status) (r : Run) : State :=
  { s with status := st, dec.hist := hist, run := r }

/-- The emission that ends a command, measured from the state s before the filterbank. -/
theorem outputs_finish_emit (s : State) (hist : PerChan Hist) (st : Status) {r : Run} (h : Available r) :
    outputs s (finish (emit (withFilter s hist st r))) r.lo r.hi (sampleAt r.raw) := by
  obtain ⟨hlen, helem⟩ := emitted_spec (s := withFilter s hist st r) h
  obtain ⟨d, h0, hend, hconv⟩ := converted_spec (withFilter s hist st r)
  refine ⟨⟨d, h0, hlen ▸ hend, fun c i hlo hhi => ?_⟩, fun a ha => ?_, fun sp a hsp => ?_, rfl, rfl, rfl, rfl⟩
  · obtain ⟨w, hw, hc⟩ := hconv _ c _ (helem c i hlo hhi)
    have hword := wordAt_out_words (s := finish (emit (withFilter s hist st r))) rfl hw
    unfold Converts at hc
    intro e
    split
    next hf =>
      obtain ⟨hd, rfl⟩ := (if_pos hf).mp hc
      exact ⟨hd, hword⟩
    next hf =>
      obtain ⟨hd, rfl⟩ := (if_neg hf).mp hc
      exact ⟨hd, hword⟩
  · refine ramByte_ramWrite_outside .out s.out 0 _ a (.inr ?_)
    rw [length_flatMap_wordBytes, converted_length, hlen]
    exact (by omega : 0 + 4 * (2 * (r.hi - r.lo)) ≤ a)
  · cases sp with
    | out => exact absurd rfl hsp
    | lit | tab | stream => rfl

/-! The step, by the frame it is about. -/

theorem step_synth {s : State} (hn : noActDue s) (hb : s.status.busy = true) (hp : s.run.point = .synth) :
    step s = .next (synthStep s) := by
  rw [step_of_noActDue s hn hb, blockStep, hp]

theorem synthStep_extra {s : State} (hx : s.run.extra = true) :
    synthStep s = finish (emit (synthFrame 1152 s)) := if_pos hx

theorem lastFrame_iff (s : State) : lastFrame s = true ↔ s.dec.frameCtr = s.latched.frames := beq_iff_eq

/-- The end of the samples, with the numbers of 46_synthesis.md R296, R297. -/
theorem trimHi_eq (s : State) :
    trimHi s = if s.dec.frameCtr = s.latched.frames then s.latched.lastValid.toNat + 481 else 1152 := by
  simp only [trimHi, lastFrame_iff, synthDelay, frameLen]

/-- The frame's own synthesis either ends the DECODE or starts the extra pass. -/
theorem synthStep_main {s : State} (hx : s.run.extra = false) (hr : s.run.replay = false) :
    synthStep s = if s.dec.frameCtr = s.latched.frames ∧ 1152 < trimHi s then beginExtra (synthMain s)
      else finish (emit (synthMain s)) := by
  simp only [synthStep, hx, hr, Bool.false_eq_true, if_false, Bool.and_eq_true, lastFrame_iff, decide_eq_true_eq]
  rfl

theorem synthMain_raw_length (s : State) (c : Chan) : (chanGet (synthMain s).run.raw c).length = 1152 :=
  synthFrame_raw_length (base := 0) (Nat.zero_le _)

theorem synthMain_slotSamples (s : State) : slotSamples s (slotHist s) 0 (sampleAt (synthMain s).run.raw) :=
  synthFrame_slotSamples fun _ => Nat.zero_le _

/-- Settles O37: `synthStep` emits after `synthMain`, or after the extra frame's `synthFrame`. -/
theorem decodeEmits : Obligations.DecodeEmits := by
  refine ⟨?_, fun s hn hb hp hx hraw hle => ?_⟩
  · intro s hn hb hp hx hr lo hi hle
    have hhi : hi = trimHi s := (trimHi_eq s).symm
    have hstep : step s = .next (finish (emit (synthMain s))) := by
      rw [step_synth hn hb hp, synthStep_main hx hr, if_neg (by omega)]
    have havail : Available (synthMain s).run := fun c => by
      rw [synthMain_raw_length]
      exact hhi.symm.le.trans hle
    refine ⟨_, _, _, hstep, synthFrame_filtered 0 s, synthMain_slotSamples s, ?_, rfl⟩
    rw [hhi]
    exact outputs_finish_emit s (synthMain s).dec.hist (synthMain s).status havail
  · have hstep : step s = .next (finish (emit (synthFrame 1152 s))) := by
      rw [step_synth hn hb hp, synthStep_extra hx]
    have hlen : ∀ c, 1152 ≤ (chanGet s.run.raw c).length := fun c => (hraw c).ge
    have havail : Available (synthFrame 1152 s).run := fun c => by
      rw [synthFrame_raw_length (hlen c)]
      exact hle
    refine ⟨_, _, _, hstep, synthFrame_filtered 1152 s, synthFrame_slotSamples hlen, fun c i hi => ?_,
      outputs_finish_emit s (synthFrame 1152 s).dec.hist s.status havail, rfl⟩
    rw [← synthFrame_raw_below hi (hlen c)]
    exact getElem?_eq_sampleAt (by rw [synthFrame_raw_length (hlen c)]; omega)

/-! The extra pass (46_synthesis.md R298). -/

/-- With Gapless = 1 the four registers are saved and the extra frame's jump field is next. -/
theorem beginExtra_gapless {s : State} (h : s.latched.gapless = true) :
    beginExtra s = { s with
      run := { s.run with
        point := .extraJump, extra := true
        save := ⟨s.frame.fwdJump, s.dec.bitsUsed, s.dec.maxUsedReg, s.status.frameValid⟩ }
      phase := .synth } := if_pos h

/-- With Gapless = 0 no field is read and Y is zero. -/
theorem beginExtra_silent {s : State} (h : s.latched.gapless = false) :
    beginExtra s = { s with run.extra := true, dec.y := Decoder.reset.y } :=
  if_neg (by rw [h]; exact Bool.false_ne_true)

theorem reset_y_zero (c : Chan) (k : Slot) (n : Subband) : (chanGet Decoder.reset.y c)[k][n] = Config.zero := by
  cases c <;> simp [Decoder.reset, chanGet]

/-- Whatever Gapless, the extra pass starts with the histories, the samples and the bounds of the frame. -/
theorem beginExtra_frame {s : State} (h : s.phase = .synth) : ∃ y p save, beginExtra s = { s with
    dec := { s.dec with y := y }, run := { s.run with point := p, extra := true, save := save }, phase := .synth } := by
  cases hg : s.latched.gapless with
  | true => exact ⟨s.dec.y, _, _, beginExtra_gapless hg⟩
  | false => exact ⟨Decoder.reset.y, s.run.point, s.run.save, h ▸ beginExtra_silent hg⟩

/-- The extra frame's jump field is consumed and discarded, and its frame is not counted. -/
theorem fwdjump_extra {s : State} (h : s.run.extra = true) (j : BitVec 20) :
    exec (.fwdjump j) s = .next { s with dec.bp := s.dec.bp + 20 } ∧
      sequenceAfter (.fwdjump j) s = { s with run.point := .res .l 0, phase := .header } := by
  constructor
  · rw [exec, execFwdjump, if_pos h]
    rfl
  · rw [sequenceAfter, afterJump, if_pos h]
    rfl

/-- After the extra frame's requantizer the four registers come back. -/
theorem requantStep_extra {s : State} (h : s.run.extra = true) :
    requantStep s = { s with
      dec := { s.dec with
        y := (requantStep s).dec.y, bitsUsed := s.run.save.bitsUsed, maxUsedReg := s.run.save.maxUsedReg }
      frame := { s.frame with fwdJump := s.run.save.fwdJump }
      status := { s.status with frameValid := s.run.save.frameValid }, run.point := .synth, phase := .synth } := by
  obtain ⟨y, hy⟩ := requantize_writes_y s
  have hstep : requantStep s = enter .synth (restoreSaved { s with dec.y := y }) := by
    rw [requantStep, h, hy, if_pos rfl]
  rw [hstep]
  rfl

/-- Settles O38: `beginExtra` after `synthMain`, the jump field inside the pass, and the requantizer that ends its parse. -/
theorem extraPass : Obligations.ExtraPass := by
  refine ⟨fun s hn hb hp hx hr hph hlast hvalid => ?_, fun s j hx => fwdjump_extra hx j, fun s hn hb hp hx =>
    ⟨_, step_requant hn hb hp, requantStep_extra hx⟩⟩
  have hhi : trimHi s = s.latched.lastValid.toNat + 481 := by rw [trimHi_eq, if_pos hlast]
  have hstep : step s = .next (beginExtra (synthMain s)) := by
    rw [step_synth hn hb hp, synthStep_main hx hr, if_pos ⟨hlast, by omega⟩]
  obtain ⟨y, p, save, hbegin⟩ := beginExtra_frame (s := synthMain s) hph
  refine ⟨_, slotHist s, sampleAt (synthMain s).run.raw, hstep, ?_, synthMain_slotSamples s, ?_, ?_, ?_, ?_, ?_,
    fun c => ?_, ?_⟩
  · rw [hbegin]
    exact synthFrame_filtered 0 s
  · rw [hbegin]
    rfl
  · rw [hbegin]
  · rw [hbegin]
    exact hr
  · rw [hbegin]
    rfl
  · rw [hbegin]
    exact hhi
  · have hlen := synthMain_raw_length s c
    rw [hbegin]
    exact ⟨hlen, fun i hi => getElem?_eq_sampleAt (hlen.symm ▸ hi)⟩
  · split
    next hg => rw [beginExtra_gapless (s := synthMain s) hg]; exact ⟨rfl, rfl, rfl⟩
    next hg =>
      rw [beginExtra_silent (s := synthMain s) (Bool.eq_false_iff.2 hg)]
      exact ⟨hp, reset_y_zero⟩

end Sys2Proof.Machine
end

section
/-! SUPPORT. The sequencer agrees with BUSY, OPEN and PHASE (47_commands.md R310, 10_state.md R53): where a field is fetched,
its operands name the point, and every point the sequencer moves on to is one the parser can be at. -/

namespace Sys2Proof.Machine

/-! The operands of a fetched field. -/

/-- What `PointOk` says of the point the instruction was fetched at, as far as the point after it depends on it. -/
def InPlace (s : State) : Instr → Prop
  | .resA _ n _ | .resxB _ n _ | .msflagA n _ | .msflagB n _ => n.val ≤ s.latched.maxBand.toNat
  | .resdB _ n _ => n.val ≤ s.latched.maxBand.toNat ∧ 1 ≤ n.val ∧ s.latched.layout = .b
  | .scfrawA c n _ _ | .dscfA c n _ _ | .scfxB c n _ _ => coded s c n = true
  | .dscfB c n _ _ => coded s c n = true ∧ s.latched.layout = .b
  | _ => True

theorem coefField_inPlace {s : State} {c : Chan} {n : Subband} {k : Slot} {f : Field} {i : Instr}
    (h : coefField s c n k = some f) (hm : Makes f i) : InPlace s i := by
  unfold coefField at h
  dsimp only at h
  split at h <;> cases h <;> first
    | (subst hm; trivial)
    | (obtain ⟨x, rfl⟩ := hm; trivial)

/-- A field is fetched at its own point (30_encoding.md R100, R109, R110). -/
theorem inPlace_of_fieldAt {s : State} {f : Field} {i : Instr} (hp : PointOk s) (h : fieldAt s = some f)
    (hm : Makes f i) : InPlace s i := by
  unfold fieldAt at h
  unfold PointOk at hp
  cases hpt : s.run.point with
  | idle | requant | synth => simp [hpt] at h
  | fwdJump | extraJump =>
    simp only [hpt, Option.some.injEq] at h
    subst h
    obtain ⟨x, rfl⟩ := hm
    trivial
  | res c n =>
    rw [hpt] at hp
    cases hl : s.latched.layout <;> simp only [hpt, hl] at h
    · cases h
      obtain ⟨e, rfl⟩ := hm
      exact hp
    · split at h <;> cases h <;> obtain ⟨x, rfl⟩ := hm
      · trivial
      · next hn => exact ⟨hp, Nat.one_le_iff_ne_zero.2 (Fin.val_ne_zero_iff.2 hn), hl⟩
  | resX c n =>
    rw [hpt] at hp
    simp only [hpt, Option.some.injEq] at h
    subst h
    obtain ⟨x, rfl⟩ := hm
    exact hp.1
  | ms n =>
    rw [hpt] at hp
    cases hl : s.latched.layout <;> simp only [hpt, hl, Option.some.injEq] at h <;> subst h <;>
      obtain ⟨x, rfl⟩ := hm <;> exact hp.1
  | scf c n g =>
    rw [hpt] at hp
    cases hl : s.latched.layout <;> simp only [hpt, hl] at h
    · split at h <;> cases h <;> obtain ⟨x, rfl⟩ := hm <;> exact hp
    · cases h
      obtain ⟨e, rfl⟩ := hm
      exact ⟨hp, hl⟩
  | scfX c n g =>
    rw [hpt] at hp
    simp only [hpt, Option.some.injEq] at h
    subst h
    obtain ⟨x, rfl⟩ := hm
    exact hp.1
  | scfi _ _ | shape _ _ =>
    cases hl : s.latched.layout <;> simp only [hpt, hl, Option.some.injEq] at h <;> subst h <;>
      obtain ⟨x, rfl⟩ := hm <;> trivial
  | coef c n k =>
    simp only [hpt] at h
    exact coefField_inPlace h hm

/-- A field that raised nothing writes no latched copy, and a scalefactor field no resolution. -/
theorem InPlace.of_exec {i : Instr} (hi : IsField i) {s u : State} (h : InPlace s i) (hu : exec i s = .next u)
    (hb : u.status.busy = true) : InPlace u i := by
  have hl : u.latched = s.latched := (exec_field_hostDataKept hi hu).latched
  have hres : resPlace i = none → u.dec.res = s.dec.res := by
    intro hn
    rcases exec_resWritten i hi hu with ⟨info, v, rfl⟩ | hres | ⟨c, n, r, hc, -⟩
    · simp at hb
    · exact hres
    · simp [hn] at hc
  cases i with
  | resA | resdB | resxB | msflagA | msflagB => simpa only [InPlace, hl] using h
  | scfrawA | dscfA | dscfB | scfxB => simpa only [InPlace, coded, resOf, hres rfl, hl] using h
  | _ => trivial

/-! The point after a field. -/

theorem enterSamples_pointOk (c : Chan) (n : Subband) (s : State) : PointOk (enterSamples c n s) := by
  unfold enterSamples
  split
  · next h =>
    simp only [Bool.and_eq_true, decide_eq_true_eq, and_assoc] at h
    exact h
  · trivial

theorem enterIndicator_pointOk (k : Nat) (s : State) : PointOk (enterIndicator k s) := by
  unfold enterIndicator
  split
  · next c n h => exact (nextCoded_spec s k c n h).1
  · split
    · next c n h => exact (nextCoded_spec s 0 c n h).1
    · exact enterSamples_pointOk _ _ s

theorem enterScalefactor_pointOk (k : Nat) (s : State) : PointOk (enterScalefactor k s) := by
  unfold enterScalefactor
  split
  · next c n h => exact (nextCoded_spec s k c n h).1
  · exact enterSamples_pointOk _ _ s

theorem endBand_pointOk (n : Subband) (s : State) : PointOk (endBand n s) := by
  unfold endBand
  split
  · next h =>
    have hn : (nextBand n).val ≤ n.val + 1 := Nat.mod_le _ _
    exact hn.trans h
  · exact enterIndicator_pointOk 0 _

theorem endChannel_pointOk (c : Chan) (n : Subband) (s : State) : PointOk (endChannel c n s) := by
  unfold endChannel
  split
  · exact enterSamples_pointOk _ _ s
  · split
    · exact enterSamples_pointOk _ _ s
    · trivial

theorem nextCoef_pointOk (c : Chan) (n : Subband) (k : Nat) (s : State) : PointOk (nextCoef c n k s) := by
  unfold nextCoef
  split
  · trivial
  · exact endChannel_pointOk _ _ s

theorem nextScf_pointOk {c : Chan} {n : Subband} {s : State} (h : coded s c n = true) (g : Segment) :
    PointOk (nextScf c n g s) := by
  unfold nextScf
  split
  · exact h
  · exact enterScalefactor_pointOk _ s

theorem afterResA_pointOk (c : Chan) {n : Subband} {s : State} (h : n.val ≤ s.latched.maxBand.toNat) :
    PointOk (afterResA c n s) := by
  unfold afterResA
  split
  · split
    · next hms => exact ⟨h, hms⟩
    · exact h
  · exact endBand_pointOk n s

theorem afterResB_pointOk (c : Chan) {n : Subband} {s : State} (h : n.val ≤ s.latched.maxBand.toNat) :
    PointOk (afterResB c n s) := by
  unfold afterResB
  split
  · exact h
  · split
    · next hms => exact ⟨h, (Bool.and_eq_true_iff.1 hms).1⟩
    · exact endBand_pointOk n _

theorem afterJump_pointOk (s : State) : PointOk (afterJump s) := by
  unfold afterJump
  split <;> exact Nat.zero_le _

theorem sequenceAfter_pointOk {i : Instr} (hi : IsField i) {s : State} (h : InPlace s i) :
    PointOk (sequenceAfter i s) := by
  obtain ⟨v, f, hf⟩ := hi
  cases i with
  | nop | build | openCmd | resync | decode | replay | setpos | seed => cases hf
  | fwdjump j => exact afterJump_pointOk s
  | qskip c n | qnoise c n => exact endChannel_pointOk c n s
  | resA c n e => exact afterResA_pointOk c h
  | res0B c x => exact afterResB_pointOk c (Nat.zero_le _)
  | resxB c n x => exact afterResB_pointOk c h
  | resdB c n e =>
    simp only [sequenceAfter]
    split
    · exact h
    · exact afterResB_pointOk c h.1
  | msflagA n m => exact h
  | msflagB n m => exact endBand_pointOk n s
  | scfiA c n e | scfiB c n e => exact enterIndicator_pointOk _ s
  | scfrawA c n g x | dscfA c n g e | scfxB c n g x => exact nextScf_pointOk h g
  | dscfB c n g e =>
    simp only [sequenceAfter]
    split
    · exact h
    · exact nextScf_pointOk h.1 g
  | shapeA c n x | shapeB c n x => trivial
  | q1B c n j e | q2B c n j e => exact nextCoef_pointOk c n _ s
  | _ c n k x => exact nextCoef_pointOk c n _ s

/-! The states of a step. -/

theorem coherent_of_idle {s : State} (hb : s.status.busy = false) (hp : s.run.point = .idle) : Coherent s :=
  ⟨fun _ => hp, by simp [hb], by simp [hb], by simp [hb]⟩

theorem coherent_of_running {s : State} (hb : s.status.busy = true) (ho : s.status.opened = true)
    (hph : s.phase = phaseOf s.run.point) (hp : PointOk s) : Coherent s :=
  ⟨by simp [hb], fun _ => ho, fun _ => hph, fun _ => hp⟩

theorem raise_coherent (k : RaiseKind) (info : Nat) (s : State) : Coherent (raise k info s) :=
  coherent_of_idle (raise_busy k info s) (raise_point k info s)

/-- DECODE and REPLAY of an open stream: the header field, or still idle at the end of the stream. -/
theorem startFrame_coherent (replay : Bool) {s : State} (hb : s.status.busy = false) (hp : s.run.point = .idle)
    (ho : s.status.opened = true) : Coherent (startFrame replay s) := by
  unfold startFrame
  dsimp only
  split
  · exact coherent_of_idle hb hp
  · exact coherent_of_running rfl ho rfl trivial

/-- A command, run by an idle block (47_commands.md R310 to R320): only DECODE and REPLAY set BUSY. -/
theorem command_coherent {w : Word} {i : Instr} {s t : State} (hb : s.status.busy = false) (hp : s.run.point = .idle)
    (hw : decodeCmd w = .ok i) (h : exec i s = .next t) : Coherent t := by
  have hillegal (w : Word) : Coherent (illegal s w) := coherent_of_idle hb hp
  rcases decodeCmd_cases w i hw with rfl | rfl | rfl | rfl | rfl | rfl | rfl | rfl
  · cases h; exact coherent_of_idle hb hp
  · cases h
    rcases build_cases (legal s) with ⟨i, -, h⟩ | ⟨-, tab, tcls, h, -⟩ <;> rw [h]
    · exact raise_coherent _ _ _
    · exact coherent_of_idle hb hp
  · simp only [exec, execOpen] at h
    split at h
    · split at h <;> cases h
      · exact raise_coherent _ _ _
      · exact coherent_of_idle hb hp
    · cases h; exact hillegal 2
  · simp only [exec, execResync] at h
    split at h <;> cases h
    · exact coherent_of_idle hb hp
    · exact hillegal 3
  · simp only [exec, execDecode] at h
    split at h <;> cases h
    · exact startFrame_coherent false hb hp ‹_›
    · exact hillegal 4
  · simp only [exec, execReplay] at h
    split at h <;> cases h
    · exact startFrame_coherent true hb hp ‹_›
    · exact hillegal 5
  · simp only [exec, execSetpos] at h
    split at h <;> cases h
    · exact coherent_of_idle hb hp
    · exact hillegal 6
  · cases h; exact coherent_of_idle hb hp

/-- An act of the host: a command, the reset input, or a write to what the sequencer does not see. -/
theorem hostStep_coherent {act : HostAct} {s t : State} (hc : Coherent s) (h : hostStep act s = .next t) :
    Coherent t := by
  rcases hostStep_cases act s t h with ⟨w, i, hb, hw, hi⟩ | ⟨w, rfl⟩ | ⟨_, _, rfl, -⟩ | ⟨_, _, rfl, -⟩ | ⟨_, rfl⟩ |
    ⟨_, _, rfl, -⟩ | ⟨_, _, _, _, rfl⟩ | rfl
  · exact command_coherent hb (hc.idle hb) hw hi
  case inr.inr.inr.inr.inr.inr.inr => exact coherent_of_idle rfl rfl
  all_goals exact ⟨hc.idle, hc.opened, hc.phase, hc.point⟩

theorem requantStep_coherent {s : State} (hb : s.status.busy = true) (ho : s.status.opened = true) :
    Coherent (requantStep s) := by
  obtain ⟨_, _, _, _, _, h⟩ := requantStep_frame s
  rw [h]
  exact coherent_of_running hb ho rfl trivial

/-- The synthesis ends the command, or stays in phase SYNTH with the extra pass. -/
theorem synthStep_coherent {s : State} (hb : s.status.busy = true) (ho : s.status.opened = true)
    (hph : s.phase = .synth) (hp : s.run.point = .synth) : Coherent (synthStep s) := by
  rcases synthStep_cases s with ⟨_, _, _, _, _, h⟩ | ⟨_, h⟩ | ⟨_, _, _, h | h⟩ <;> rw [h]
  · exact coherent_of_idle rfl rfl
  · exact coherent_of_idle rfl rfl
  · exact coherent_of_running hb ho rfl rfl
  · refine coherent_of_running hb ho ?_ ?_
    · simp [hp, hph, phaseOf]
    · simp [PointOk, hp]

/-- A field: it raises, or the sequencer moves on from it. -/
theorem field_coherent {s u : State} {f : Field} {i : Instr} (hb : s.status.busy = true) (ho : s.status.opened = true)
    (hp : PointOk s) (hf : fieldAt s = some f) (hi : fetch s f = .ok i) (hu : exec i s = .next u) :
    Coherent (if u.status.busy then sequenceAfter i u else u) := by
  have hfield := isField_of_fetch s f i hf hi
  obtain ⟨u', hu', hw⟩ := exec_field i s hfield
  cases hu.symm.trans hu'
  rcases hw with hw | ⟨info, bp, rfl⟩
  · obtain ⟨hbu, hou⟩ : u.status.busy = true ∧ u.status.opened = true := by
      obtain ⟨_, _, _, _, _, _, _, _, rfl⟩ := hw
      exact ⟨hb, ho⟩
    have hpoint := sequenceAfter_pointOk hfield
      ((inPlace_of_fieldAt hp hf (makes_of_fetch hi)).of_exec hfield hu hbu)
    rw [if_pos hbu]
    obtain ⟨_, _, _, _, _, _, _, _, h⟩ := sequenceAfter_moved i hfield u
    rw [h] at hpoint ⊢
    exact coherent_of_running hbu hou rfl hpoint
  · rw [if_neg (by simp)]
    exact raise_coherent _ _ _

theorem blockStep_coherent {s t : State} (hc : Coherent s) (hb : s.status.busy = true) (h : blockStep s = .next t) :
    Coherent t := by
  have ho := hc.opened hb
  rcases blockStep_cases s t h with ⟨k, info, -, rfl⟩ | ⟨-, rfl⟩ | ⟨hp, rfl⟩ | ⟨f, i, u, hf, hi, hu, rfl⟩
  · exact raise_coherent k info s
  · exact requantStep_coherent hb ho
  · exact synthStep_coherent hb ho ((hc.phase hb).trans (by rw [hp]; rfl)) hp
  · exact field_coherent hb ho (hc.point hb) hf hi hu

/-- Settles O54: an act of the host, a step of the running block, or an idle block with nothing to do. -/
theorem coherentKept : Obligations.CoherentKept := by
  intro s t hc h
  rcases step_cases s t h with ⟨op, rest, -, -, hh⟩ | ⟨hb, hk⟩ | ⟨-, rfl⟩
  · exact hostStep_coherent (s := { s with host := rest }) ⟨hc.idle, hc.opened, hc.phase, hc.point⟩ hh
  · exact blockStep_coherent hc hb hk
  · exact hc

end Sys2Proof.Machine
end

section
/-! SUPPORT. The commands (47_commands.md R310 to R320): what each does when its precondition holds and when it fails, the
issue of a command word, and the end of a REPLAY. -/

namespace Sys2Proof.Machine

/-! A command whose precondition fails is refused (R319, R320). -/

theorem exec_openCmd_refused {s : State} (h : s.status.tablesReady = false) :
    exec .openCmd s = .next (illegal s 2) := if_neg (by simp [h])

theorem exec_resync_refused {s : State} (h : s.status.opened = false) :
    exec .resync s = .next (illegal s 3) := if_neg (by simp [h])

theorem exec_decode_refused {s : State} (h : s.status.opened = false) :
    exec .decode s = .next (illegal s 4) := if_neg (by simp [h])

theorem exec_replay_refused {s : State} (h : s.status.opened = false) :
    exec .replay s = .next (illegal s 5) := if_neg (by simp [h])

theorem exec_setpos_refused {s : State} (h : s.status.opened = false ∨ s.latched.frames.toNat < s.regs.frameTarget.toNat) :
    exec .setpos s = .next (illegal s 6) := by
  refine if_neg fun ⟨ho, hle⟩ => ?_
  rcases h with h | h
  · simp [h] at ho
  · omega

/-! A command whose precondition holds (R313 to R317). -/

/-- STATUS as OPEN leaves it before its checks (R313). -/
def openStart (s : State) : State := { legal s with status := openClear (legal s).status }

theorem exec_openCmd_raises {s : State} (h : s.status.tablesReady = true) {k : RaiseKind} {info : Nat}
    (hc : openCheck s.regs = some (k, info)) : exec .openCmd s = .next (raise k info (forgetStream (openStart s))) := by
  rw [exec, execOpen, if_pos h]
  simp only [legal, hc, openStart]

theorem exec_openCmd_opens {s : State} (h : s.status.tablesReady = true) (hc : openCheck s.regs = none) :
    exec .openCmd s = .next (openStream (openStart s)) := by
  rw [exec, execOpen, if_pos h]
  simp only [legal, hc, openStart]

theorem exec_resync_opened {s : State} (h : s.status.opened = true) :
    exec .resync s = .next { s with
      status := { s.status with errCmd := false, frameValid := false, warm := false }
      phase := .idle, dec := resyncDecoder s.dec } := if_pos h

theorem exec_decode_opened {s : State} (h : s.status.opened = true) :
    exec .decode s = .next (startFrame false s) := if_pos h

theorem exec_replay_opened {s : State} (h : s.status.opened = true) :
    exec .replay s = .next (startFrame true s) := if_pos h

theorem exec_setpos_allowed {s : State} (h : s.status.opened = true)
    (hf : s.regs.frameTarget.toNat ≤ s.latched.frames.toNat) :
    exec .setpos s = .next { s with
      status := { s.status with errCmd := false, eos := false }
      dec := { s.dec with bp := s.regs.posTargetHi ++ s.regs.posTargetLo, frameCtr := s.regs.frameTarget }
      streamDirty := none } := if_pos ⟨h, hf⟩

/-- DECODE and REPLAY with a frame left (R321). -/
theorem startFrame_of_frameLeft {s : State} (h : s.dec.frameCtr.toNat < s.latched.frames.toNat) (replay : Bool) :
    startFrame replay s = { s with
      status := { s.status with errCmd := false, busy := true }, regs := { s.regs with samplesOut := 0 }
      phase := .header, run := { Run.reset with replay := replay, point := .fwdJump } } :=
  if_neg (not_le.2 h)

/-! The issue of a command (R310, R319, R320). -/

/-- A word that is no command is not allowed (30_encoding.md R116). -/
theorem decodeCmd_of_allowed {s : State} {w : Word} (h : commandAllowed s w) : ∃ i, decodeCmd w = .ok i := by
  unfold commandAllowed at h
  unfold decodeCmd
  split at h
  case h_9 => exact h.elim
  all_goals
    rename_i hw
    rw [hw]
    exact ⟨_, rfl⟩

/-- A command whose precondition fails writes ERR_CMD and its own word to ERR_INFO (R319). -/
theorem exec_of_not_allowed {s : State} {w : Word} {i : Instr} (hw : decodeCmd w = .ok i) (h : ¬ commandAllowed s w) :
    exec i s = .next (illegal s w) := by
  have henc := encode_of_decodeCmd hw
  rcases decodeCmd_cases w i hw with rfl | rfl | rfl | rfl | rfl | rfl | rfl | rfl <;> cases henc
  · exact absurd trivial h
  · exact absurd trivial h
  · exact exec_openCmd_refused (Bool.eq_false_iff.2 h)
  · exact exec_resync_refused (Bool.eq_false_iff.2 h)
  · exact exec_decode_refused (Bool.eq_false_iff.2 h)
  · exact exec_replay_refused (Bool.eq_false_iff.2 h)
  · refine exec_setpos_refused ?_
    rw [← Bool.not_eq_true, ← not_le]
    exact not_and_or.1 h
  · exact absurd trivial h

@[simp] theorem raise_errCmd (k : RaiseKind) (info : Nat) (s : State) :
    (raise k info s).status.errCmd = s.status.errCmd := by
  cases k <;> rfl

/-- A command that runs leaves ERR_CMD clear, even when it raises (R310). -/
theorem exec_of_allowed {s : State} {w : Word} {i : Instr} (hw : decodeCmd w = .ok i) (h : commandAllowed s w) :
    ∃ t, exec i s = .next t ∧ t.status.errCmd = false := by
  have henc := encode_of_decodeCmd hw
  have hstart (replay : Bool) : (startFrame replay s).status.errCmd = false := by
    unfold startFrame
    dsimp only
    split <;> rfl
  rcases decodeCmd_cases w i hw with rfl | rfl | rfl | rfl | rfl | rfl | rfl | rfl <;> cases henc
  · exact ⟨_, rfl, rfl⟩
  · refine ⟨_, rfl, ?_⟩
    rcases build_cases (legal s) with ⟨i, -, h⟩ | ⟨-, tab, tcls, h, -⟩ <;> rw [h]
    · exact raise_errCmd _ _ _
    · rfl
  · cases hc : openCheck s.regs with
    | some e => exact ⟨_, exec_openCmd_raises h hc, raise_errCmd _ _ _⟩
    | none => exact ⟨_, exec_openCmd_opens h hc, rfl⟩
  · exact ⟨_, exec_resync_opened h, rfl⟩
  · exact ⟨_, exec_decode_opened h, hstart false⟩
  · exact ⟨_, exec_replay_opened h, hstart true⟩
  · exact ⟨_, exec_setpos_allowed h.1 h.2, rfl⟩
  · exact ⟨_, rfl, rfl⟩

/-- A word written to CMD of an idle block is run (R310). -/
theorem hostStep_cmd_idle {s : State} (hb : s.status.busy = false) (w : Word) :
    hostStep (.write .reg 0 32 w) s = runCommand w s := by
  rw [hostStep_write_idle (w := .reg) hb rfl (by decide)]
  simp [windowWrite, hb]

/-- A word written to CMD while BUSY = 1 is refused, whatever it is (R310; log 18). -/
theorem hostStep_cmd_busy {s : State} (hb : s.status.busy = true) (w : Word) :
    hostStep (.write .reg 0 32 w) s = .next (illegal s w) := by
  simp [hostStep, accessStop, windowSize, busyAllowed, windowWrite, hb]

/-- Settles O2: refused by BUSY, by the decoder, or by the command's own precondition; run otherwise. -/
theorem commandIssue : Obligations.CommandIssue := by
  intro s w
  refine ⟨fun h => ?_, fun hb hw => ?_⟩
  · cases hb : s.status.busy with
    | true => exact hostStep_cmd_busy hb w
    | false =>
      have hno : ¬ commandAllowed s w := h.resolve_left (by simp [hb])
      rw [hostStep_cmd_idle hb, runCommand]
      cases hd : decodeCmd w with
      | error e => rfl
      | ok i => exact exec_of_not_allowed hd hno
  · obtain ⟨i, hi⟩ := decodeCmd_of_allowed hw
    obtain ⟨t, ht, herr⟩ := exec_of_allowed hi hw
    exact ⟨i, t, hi, by rw [hostStep_cmd_idle hb, runCommand, hi], ht, herr⟩

/-! OPEN with a legal descriptor (R313). -/

theorem layoutOf_of_legal {v : BitVec 8} (h : v = 4 ∨ v = 5 ∨ v = 6 ∨ v = 7) :
    layoutOf v = some (if v = 7 then .b else .a) := by
  rcases h with rfl | rfl | rfl | rfl <;> rfl

theorem openCheck_of_legal {r : Regs} (h : DescriptorLegal r) : openCheck r = none := by
  obtain ⟨htag, hpos, hlen, hoff, hle, hmul⟩ := h
  have hlay : ¬ (layoutOf r.descVersion).isNone = true := by simp [layoutOf_of_legal htag]
  have hlast : ¬ (r.descLastvalid.toNat = 0 ∨ frameLen < r.descLastvalid.toNat) := by
    unfold frameLen
    omega
  rw [openCheck, if_neg hlay, if_neg hlast, if_neg (not_not.2 hoff), if_neg (by omega)]

/-! The reset values of DecoderState (10_state.md R69). -/

theorem reset_carry (c : Chan) (n : Subband) : bankGet Decoder.reset.res c n = 0 ∧
    bankGet Decoder.reset.lastScf c n = 0 ∧ ∀ g : Segment, (bankGet Decoder.reset.scf c n)[g] = 0 := by
  simp [Decoder.reset]

theorem reset_ms (n : Subband) : Decoder.reset.ms[n] = false := by
  simp [Decoder.reset]

/-- Settles O6: a legal descriptor passes the checks, and the stream is opened. -/
theorem openSucceeds : Obligations.OpenSucceeds := by
  intro s hready hdesc
  have hlatched : latch s.regs = ⟨if s.regs.descVersion = 7 then .b else .a, s.regs.descMaxband, s.regs.descFrames,
      s.regs.descGapless, s.regs.descLastvalid, s.regs.descHdroff, s.regs.descMs, s.regs.streamLen, s.regs.outfmt⟩ := by
    rw [latch, layoutOf_of_legal hdesc.1]
    rfl
  exact ⟨_, exec_openCmd_opens hready (openCheck_of_legal hdesc), rfl, rfl, hlatched, rfl, rfl, rfl, rfl, rfl,
    reset_carry, reset_ms, reset_y_zero, rfl, rfl, rfl, fun _ _ => rfl⟩

/-! The other commands. -/

/-- Settles O8: RESYNC writes the reset values of 10_state.md R69, or is refused. -/
theorem resyncResult : Obligations.ResyncResult := fun _ =>
  ⟨fun ho => ⟨_, exec_resync_opened ho, rfl, reset_carry, reset_ms, reset_y_zero, fun _ _ => rfl⟩,
    exec_resync_refused⟩

/-- Settles O1: NOP is `legal` alone, SEED loads the generator besides. -/
theorem nopAndSeed : Obligations.NopAndSeed := fun _ => ⟨rfl, rfl⟩

/-- Settles O9: both commands are `startFrame`, which differs by the kind of command alone. -/
theorem decodeReplayStart : Obligations.DecodeReplayStart := by
  intro s ho hleft
  have hdecode := exec_decode_opened ho
  have hreplay := exec_replay_opened ho
  rw [startFrame_of_frameLeft hleft] at hdecode hreplay
  exact ⟨_, _, hdecode, hreplay, rfl, rfl, rfl, rfl, rfl, fun _ _ => rfl, fun _ _ => rfl⟩

/-- Settles O11: the two halves of the target are BP, or the command is refused. -/
theorem setposResult : Obligations.SetposResult := by
  refine fun s => ⟨fun ho hf => ⟨_, ?_, exec_setpos_allowed ho hf⟩, exec_setpos_refused⟩
  rw [BitVec.toNat_append, ← Nat.shiftLeft_add_eq_or_of_lt s.regs.posTargetLo.isLt, Nat.shiftLeft_eq]

/-! The end of a REPLAY (R316). -/

/-- A REPLAY runs the filter and ends without output. -/
theorem synthStep_replay {s : State} (hx : s.run.extra = false) (hr : s.run.replay = true) :
    synthStep s = finish (synthMain s) := by
  rw [synthStep, if_neg (by simp [hx]), if_pos hr]

/-- Settles O39: `synthMain` advances the histories and sets WARM, `finish` writes no output. -/
theorem replayDiscards : Obligations.ReplayDiscards := by
  intro s hn hb hp hx hr
  have hstep : step s = .next (finish (synthMain s)) := by rw [step_synth hn hb hp, synthStep_replay hx hr]
  exact ⟨_, slotHist s, hstep, synthFrame_filtered 0 s, rfl, rfl, fun _ _ => rfl⟩

end Sys2Proof.Machine
end

section
/-! SUPPORT. The header of a frame depends on no earlier frame (47_commands.md R326, its first clause): two machines at the
header field of one frame run side by side, and what one of them has read of the header, the other has read too. -/

namespace Sys2Proof.Machine

/-! What a fetch depends on. -/

/-- The tables, the stream and the position in it. -/
structure BitSource where
  latched     : Latched
  tdir        : Vector (BitVec 25) 34
  tcls        : Vector (BitVec 6) 34
  tab         : Ram
  stream      : Ram
  streamFault : List Nat
  streamDirty : Option Nat
  bp          : BitVec 64

/-- The source of a state. -/
def sourceOf (s : State) : BitSource where
  latched := s.latched
  tdir := s.tdir
  tcls := s.tcls
  tab := s.tab
  stream := s.stream
  streamFault := s.streamFault
  streamDirty := s.streamDirty
  bp := s.dec.bp

theorem fetch_eq_of_source {s u : State} (h : sourceOf u = sourceOf s) (f : Field) : fetch u f = fetch s f := by
  simp only [sourceOf, BitSource.mk.injEq] at h
  obtain ⟨hlatched, htdir, htcls, htab, hstream, hfault, hdirty, hbp⟩ := h
  have hfails : wordFails u = wordFails s := by
    funext w
    rw [wordFails, wordFails, hlatched, hfault]
  have hvalue : bitValue u = bitValue s := by
    funext p
    simp only [bitValue, streamWord, hlatched, hstream, hdirty, hbp]
  have hbits : window u = window s := by
    simp only [window, upcoming, streamBit, hfails, hvalue, hbp]
  have htables : builtTable u = builtTable s := by
    funext l t
    simp only [builtTable, tclsOf, tdirOf, htdir, htcls, htab]
  rw [fetch, fetch, hbits, htables]

/-- At a point of the header the format depends on the point and the layout alone (30_encoding.md R109, R110). -/
theorem fieldAt_eq_of_header {s u : State} (hp : u.run.point = s.run.point) (hl : u.latched = s.latched)
    (hh : phaseOf s.run.point = .header) : fieldAt u = fieldAt s := by
  unfold fieldAt
  rw [hp, hl]
  cases h : s.run.point with
  | fwdJump | resX c n => rfl
  | res c n | ms n => cases s.latched.layout <;> rfl
  | _ => simp [h, phaseOf] at hh

/-! The order in which a header is read (43_layout_a.md R225, 44_layout_b.md R257): layout A reads L, the flag, R; layout B
reads L, R, the flag. -/

/-- The rank of a resolution; the header field has rank 0. -/
def resRank (l : Layout) (c : Chan) (n : Subband) : Nat :=
  match c, l with
  | .l, _ => 3 * n.val + 1
  | .r, .a => 3 * n.val + 3
  | .r, .b => 3 * n.val + 2

/-- The rank of a mid/side flag. -/
def msRank (l : Layout) (n : Subband) : Nat :=
  match l with
  | .a => 3 * n.val + 2
  | .b => 3 * n.val + 3

/-- The rank of what is read at a point of the header. -/
def pointRank (l : Layout) : Point → Nat
  | .res c n => resRank l c n
  | .resX c n => resRank l c n
  | .ms n => msRank l n
  | _ => 0

theorem resRank_le (l : Layout) (c : Chan) (n : Subband) : resRank l c n ≤ 3 * n.val + 3 := by
  cases c <;> cases l <;> simp only [resRank] <;> omega

theorem msRank_le (l : Layout) (n : Subband) : msRank l n ≤ 3 * n.val + 3 := by
  cases l <;> simp only [msRank] <;> omega

theorem resRank_pos (l : Layout) (c : Chan) (n : Subband) : 0 < resRank l c n := by
  cases c <;> cases l <;> simp only [resRank] <;> omega

theorem msRank_pos (l : Layout) (n : Subband) : 0 < msRank l n := by
  cases l <;> simp only [msRank] <;> omega

theorem resRank_injective {l : Layout} {c d : Chan} {n m : Subband} (h : resRank l c n = resRank l d m) :
    c = d ∧ n = m := by
  cases l <;> cases c <;> cases d <;> simp only [resRank] at h <;>
    first | exact ⟨rfl, Fin.ext (by omega)⟩ | omega

theorem msRank_injective {l : Layout} {n m : Subband} (h : msRank l n = msRank l m) : n = m := by
  cases l <;> simp only [msRank] at h <;> exact Fin.ext (by omega)

theorem resRank_ne_msRank (l : Layout) (c : Chan) (n m : Subband) : resRank l c n ≠ msRank l m := by
  cases l <;> cases c <;> simp only [resRank, msRank] <;> omega

/-! Two machines side by side. -/

/-- A frame's parse is under way, outside the extra pass, and no act of the host is due. -/
def Parsing (s : State) : Prop := s.status.busy = true ∧ noActDue s ∧ s.run.extra = false

/-- u differs from s at most in what a header writes. -/
def HeaderApart (s u : State) : Prop :=
  ∃ res ms maxUsed maxUsedReg fwdJump frameStart, u = { s with
    dec := { s.dec with res := res, ms := ms, maxUsed := maxUsed, maxUsedReg := maxUsedReg }
    frame := { s.frame with fwdJump := fwdJump, frameStart := frameStart } }

/-- s and u have read one header under the descriptor L up to rank r: what has a lower rank agrees, and so do all flags where
none is ever read. Under `full`, the two differ in nothing but what a header writes, and agree above MaxBand. -/
structure HeaderAlike (full : Prop) (L : Latched) (r : Nat) (s u : State) : Prop where
  parsing_left  : Parsing s
  parsing_right : Parsing u
  latched : s.latched = L
  source  : sourceOf u = sourceOf s
  jump    : 0 < r → u.frame.fwdJump = s.frame.fwdJump ∧ u.frame.frameStart = s.frame.frameStart
  res     : ∀ c n, resRank L.layout c n < r ∨ (full ∧ L.maxBand.toNat < n.val) → resOf u c n = resOf s c n
  ms      : ∀ n : Subband, msRank L.layout n < r ∨ L.msEnable = false ∨ (full ∧ L.maxBand.toNat < n.val) →
    u.dec.ms[n] = s.dec.ms[n]
  apart   : full → HeaderApart s u

section
variable {full : Prop} {L : Latched} {r : Nat} {s u : State}

theorem HeaderAlike.latched_right (h : HeaderAlike full L r s u) : u.latched = L :=
  (congrArg BitSource.latched h.source).trans h.latched

theorem HeaderAlike.busy_right (h : HeaderAlike full L r s u) : u.status.busy = true := h.parsing_right.1

theorem HeaderAlike.res_eq (h : HeaderAlike full L r s u) {c : Chan} {n : Subband} (hr : resRank L.layout c n < r) :
    resOf u c n = resOf s c n := h.res c n (.inl hr)

theorem HeaderAlike.coded_eq (h : HeaderAlike full L r s u) {c : Chan} {n : Subband} (hr : resRank L.layout c n < r) :
    coded u c n = coded s c n := by
  rw [coded, coded, h.res_eq hr]

/-! The operations of a header field. -/

theorem advance_alike (h : HeaderAlike full L r s u) (k : Nat) :
    HeaderAlike full L r (advance s k) (advance u k) :=
  { h with
    source := congrArg (fun b => { b with bp := b.bp + BitVec.ofNat 64 k }) h.source
    apart := fun hf => by
      obtain ⟨_, _, _, _, _, _, rfl⟩ := h.apart hf
      exact ⟨_, _, _, _, _, _, rfl⟩ }

theorem enter_alike (h : HeaderAlike full L r s u) (p : Point) :
    HeaderAlike full L r (enter p s) (enter p u) :=
  { h with
    apart := fun hf => by
      obtain ⟨_, _, _, _, _, _, rfl⟩ := h.apart hf
      exact ⟨_, _, _, _, _, _, rfl⟩ }

theorem setRes_alike {c : Chan} {n : Subband} (h : HeaderAlike full L (resRank L.layout c n) s u) (v : BitVec 8) :
    HeaderAlike full L (resRank L.layout c n + 1) (setRes s c n v) (setRes u c n v) where
  parsing_left := h.parsing_left
  parsing_right := h.parsing_right
  latched := h.latched
  source := h.source
  jump _ := h.jump (resRank_pos _ c n)
  res d m hr := by
    by_cases hdm : (d, m) = (c, n)
    · obtain ⟨rfl, rfl⟩ := Prod.ext_iff.1 hdm
      rw [resOf_setRes_self, resOf_setRes_self]
    · rw [resOf_setRes_other u hdm, resOf_setRes_other s hdm]
      refine h.res d m (hr.imp_left fun hlt => ?_)
      have hne : resRank L.layout d m ≠ resRank L.layout c n := fun e =>
        hdm (Prod.ext_iff.2 (resRank_injective e))
      omega
  ms m hr := by
    refine h.ms m (hr.imp_left fun hlt => ?_)
    have hne := resRank_ne_msRank L.layout c n m
    omega
  apart hf := by
    obtain ⟨_, _, _, _, _, _, rfl⟩ := h.apart hf
    exact ⟨_, _, _, _, _, _, rfl⟩

/-- A resolution that raised nothing was written. -/
theorem writeRes_alike {c : Chan} {n : Subband} (h : HeaderAlike full L (resRank L.layout c n) s u) {x : Int}
    (hb : (writeRes c n x s).status.busy = true) :
    HeaderAlike full L (resRank L.layout c n + 1) (writeRes c n x s) (writeRes c n x u) := by
  have hx : resLegal x = true := by
    by_contra hx
    rw [writeRes, if_neg hx, raise_busy] at hb
    cases hb
  rw [writeRes, writeRes, if_pos hx, if_pos hx]
  exact setRes_alike h _

theorem setMs_alike {n : Subband} (h : HeaderAlike full L (msRank L.layout n) s u) (b : Bool) :
    HeaderAlike full L (msRank L.layout n + 1) (setMs s n b) (setMs u n b) where
  parsing_left := h.parsing_left
  parsing_right := h.parsing_right
  latched := h.latched
  source := h.source
  jump _ := h.jump (msRank_pos _ n)
  res d m hr := by
    refine h.res d m (hr.imp_left fun hlt => ?_)
    have hne := resRank_ne_msRank L.layout d m n
    omega
  ms m hr := by
    by_cases hm : m = n
    · rw [hm, setMs_ms_self, setMs_ms_self]
    · rw [setMs_ms_other u hm, setMs_ms_other s hm]
      refine h.ms m (hr.imp_left fun hlt => ?_)
      have hne : msRank L.layout m ≠ msRank L.layout n := fun e => hm (msRank_injective e)
      omega
  apart hf := by
    obtain ⟨_, _, _, _, _, _, rfl⟩ := h.apart hf
    exact ⟨_, _, _, _, _, _, rfl⟩

/-- A flag that is not read is passed over. -/
theorem HeaderAlike.skipMs {n : Subband} (h : HeaderAlike full L (msRank L.layout n) s u) (hms : L.msEnable = false) :
    HeaderAlike full L (msRank L.layout n + 1) s u :=
  { h with
    jump := fun _ => h.jump (msRank_pos _ n)
    res := fun d m hr => by
      refine h.res d m (hr.imp_left fun hlt => ?_)
      have hne := resRank_ne_msRank L.layout d m n
      omega
    ms := fun m _ => h.ms m (.inr (.inl hms)) }

/-- The header field is kept, and it counts the frame (47_commands.md R321). -/
theorem jumpRead_alike (h : HeaderAlike full L 0 s u) (j : BitVec 20) :
    HeaderAlike full L 1
      { s with
        dec := { s.dec with bp := s.dec.bp + 20, frameCtr := s.dec.frameCtr + 1 }
        frame := { s.frame with fwdJump := j, frameStart := s.dec.bp + 20 } }
      { u with
        dec := { u.dec with bp := u.dec.bp + 20, frameCtr := u.dec.frameCtr + 1 }
        frame := { u.frame with fwdJump := j, frameStart := u.dec.bp + 20 } } where
  parsing_left := h.parsing_left
  parsing_right := h.parsing_right
  latched := h.latched
  source := congrArg (fun b => { b with bp := b.bp + 20 }) h.source
  jump _ := ⟨rfl, congrArg (fun b => b.bp + 20) h.source⟩
  res c n hr := h.res c n (hr.imp_left fun hlt => absurd hlt (not_lt.2 (resRank_pos _ c n)))
  ms n hr := h.ms n (hr.imp_left fun hlt => absurd hlt (not_lt.2 (msRank_pos _ n)))
  apart hf := by
    obtain ⟨_, _, _, _, _, _, rfl⟩ := h.apart hf
    exact ⟨_, _, _, _, _, _, rfl⟩

/-! The end of the header. -/

theorem bank_ext {α : Type} {a b : Bank α} (h : ∀ c n, bankGet a c n = bankGet b c n) : a = b := by
  obtain ⟨al, ar⟩ := a
  obtain ⟨bl, br⟩ := b
  have hl : al = bl := Vector.ext fun i hi => h .l ⟨i, hi⟩
  have hr : ar = br := Vector.ext fun i hi => h .r ⟨i, hi⟩
  rw [hl, hr]

/-- MaxUsed and its register written (42_frame_parser.md R184). -/
def withMaxUsed (s : State) : State := { s with dec.maxUsed := maxUsedOf s, dec.maxUsedReg := maxUsedOf s }

theorem endHeader_eq (s : State) : endHeader s = enterIndicator 0 (withMaxUsed s) := rfl

/-- MaxUsed depends on the resolutions up to MaxBand (42_frame_parser.md R184). -/
theorem maxUsedOf_congr (hl : u.latched = s.latched)
    (hres : ∀ c n, n.val ≤ s.latched.maxBand.toNat → resOf u c n = resOf s c n) : maxUsedOf u = maxUsedOf s := by
  unfold maxUsedOf
  congr 1
  funext m n
  by_cases hn : n.val ≤ s.latched.maxBand.toNat
  · have hcoded (c : Chan) : coded u c n = coded s c n := by rw [coded, coded, hres c n hn]
    rw [hl, hcoded, hcoded]
  · simp [hl, hn]

theorem maxUsedOf_le (s : State) : (maxUsedOf s).toNat ≤ s.latched.maxBand.toNat := by
  rcases maxUsedOf_spec s with ⟨h, -⟩ | ⟨n, ⟨hn, -⟩, hv, -⟩
  · rw [h]
    exact Nat.zero_le _
  · rw [← hv]
    exact hn

/-- The search for the next coded subband-channel depends on the resolutions up to MaxUsed. -/
theorem nextCoded_congr (hmax : u.dec.maxUsed = s.dec.maxUsed)
    (hres : ∀ c n, n.val ≤ s.dec.maxUsed.toNat → resOf u c n = resOf s c n) (k : Nat) :
    nextCoded u k = nextCoded s k := by
  unfold nextCoded
  congr 1
  funext x
  by_cases hx : x.2.val ≤ s.dec.maxUsed.toNat
  · simp only [coded, hmax, hres _ x.2 hx]
  · simp [hmax, hx]

theorem enterIndicator_point_congr (hl : u.latched = s.latched) (hmax : u.dec.maxUsed = s.dec.maxUsed)
    (hres : ∀ c n, n.val ≤ s.dec.maxUsed.toNat → resOf u c n = resOf s c n) (k : Nat) :
    (enterIndicator k u).run.point = (enterIndicator k s).run.point := by
  have hzero : resOf u .l 0 = resOf s .l 0 := hres .l 0 (Nat.zero_le _)
  unfold enterIndicator
  rw [nextCoded_congr hmax hres k, nextCoded_congr hmax hres 0]
  split
  · rfl
  · split
    · rfl
    · unfold enterSamples
      rw [hzero, hl]
      split <;> rfl

/-- After the header comes another phase. -/
theorem enterIndicator_phase (k : Nat) (s : State) : (enterIndicator k s).phase ≠ .header := by
  unfold enterIndicator
  split
  · nofun
  · split
    · nofun
    · unfold enterSamples
      split <;> nofun

/-- t and v have read one header to its end. -/
structure HeaderEnded (full : Prop) (L : Latched) (t v : State) : Prop where
  busy    : v.status.busy = true
  past    : t.phase ≠ .header
  point   : v.run.point = t.run.point
  bp      : v.dec.bp = t.dec.bp
  maxUsed : v.dec.maxUsed = t.dec.maxUsed
  bands   : ∀ n : Subband, n.val ≤ L.maxBand.toNat → (∀ c, resOf v c n = resOf t c n) ∧ v.dec.ms[n] = t.dec.ms[n]
  same    : full → v = t

/-- Past the last rank every band up to MaxBand has been read. -/
theorem HeaderAlike.res_eq_of_le (h : HeaderAlike full L r s u) (hr : 3 * L.maxBand.toNat + 3 < r) (c : Chan)
    {n : Subband} (hn : n.val ≤ L.maxBand.toNat) : resOf u c n = resOf s c n :=
  h.res_eq (by have := resRank_le L.layout c n; omega)

theorem HeaderAlike.ms_eq_of_le (h : HeaderAlike full L r s u) (hr : 3 * L.maxBand.toNat + 3 < r) {n : Subband}
    (hn : n.val ≤ L.maxBand.toNat) : u.dec.ms[n] = s.dec.ms[n] :=
  h.ms n (.inl (by have := msRank_le L.layout n; omega))

/-- Where nothing but the header's data differed, the two are one state once MaxUsed is written. -/
theorem HeaderAlike.withMaxUsed_eq (h : HeaderAlike full L r s u) (hr : 3 * L.maxBand.toNat + 3 < r) (hf : full) :
    withMaxUsed u = withMaxUsed s := by
  have hres : u.dec.res = s.dec.res := bank_ext fun c n => by
    by_cases hn : n.val ≤ L.maxBand.toNat
    · exact h.res_eq_of_le hr c hn
    · exact h.res c n (.inr ⟨hf, not_le.1 hn⟩)
  have hms : u.dec.ms = s.dec.ms := Vector.ext fun i hi => by
    by_cases hn : i ≤ L.maxBand.toNat
    · exact h.ms_eq_of_le (n := ⟨i, hi⟩) hr hn
    · exact h.ms ⟨i, hi⟩ (.inr (.inr ⟨hf, not_le.1 hn⟩))
  obtain ⟨hjump, hstart⟩ := h.jump (by omega)
  obtain ⟨res, ms, _, _, fwdJump, frameStart, rfl⟩ := h.apart hf
  dsimp only at hres hms hjump hstart
  rw [hres, hms, hjump, hstart]
  rfl

theorem endHeader_ended (h : HeaderAlike full L r s u) (hr : 3 * L.maxBand.toNat + 3 < r) :
    HeaderEnded full L (endHeader s) (endHeader u) := by
  have hlatched : u.latched = s.latched := h.latched_right.trans h.latched.symm
  have hmax : maxUsedOf u = maxUsedOf s := maxUsedOf_congr hlatched fun c n hn =>
    h.res_eq_of_le hr c (h.latched ▸ hn)
  have hle : (maxUsedOf s).toNat ≤ L.maxBand.toNat := h.latched ▸ maxUsedOf_le s
  have hmoved (x : State) : (endHeader x).status.busy = x.status.busy := by
    obtain ⟨_, _, _, _, _, _, _, _, e⟩ := enterIndicator_moved 0 (withMaxUsed x)
    rw [endHeader_eq, e]
    rfl
  refine ⟨(hmoved u).trans h.busy_right, enterIndicator_phase 0 _,
    enterIndicator_point_congr (s := withMaxUsed s) (u := withMaxUsed u) hlatched hmax
      (fun c n hn => h.res_eq_of_le hr c (hn.trans hle)) 0, ?_, ?_, fun n hn => ?_,
    fun hf => ?_⟩
  · rw [endHeader_dec, endHeader_dec]
    exact congrArg BitSource.bp h.source
  · rw [endHeader_dec, endHeader_dec]
    exact hmax
  · rw [endHeader_dec, endHeader_dec]
    refine ⟨fun c => ?_, h.ms_eq_of_le hr hn⟩
    rw [resOf, resOf, endHeader_dec, endHeader_dec]
    exact h.res_eq_of_le hr c hn
  · rw [endHeader_eq, endHeader_eq, h.withMaxUsed_eq hr hf]

/-! From one point of the header to the next. -/

/-- s and u stand at one point of the header and have read it alike so far. An escape is layout B's (44_layout_b.md R243). -/
structure HeaderAt (full : Prop) (L : Latched) (s u : State) : Prop where
  alike  : HeaderAlike full L (pointRank L.layout s.run.point) s u
  point  : u.run.point = s.run.point
  phase  : s.phase = .header
  inside : phaseOf s.run.point = .header
  escape : ∀ c n, s.run.point = .resX c n → L.layout = .b

/-- The two stand at the next point of the header, or at its end. -/
def HeaderNext (full : Prop) (L : Latched) (t v : State) : Prop := HeaderAt full L t v ∨ HeaderEnded full L t v

theorem enter_res_next (h : HeaderAlike full L r s u) {c : Chan} {n : Subband} (hr : r = resRank L.layout c n) :
    HeaderNext full L (enter (.res c n) s) (enter (.res c n) u) := by
  subst hr
  exact .inl ⟨enter_alike h _, rfl, rfl, rfl, nofun⟩

theorem enter_ms_next (h : HeaderAlike full L r s u) {n : Subband} (hr : r = msRank L.layout n) :
    HeaderNext full L (enter (.ms n) s) (enter (.ms n) u) := by
  subst hr
  exact .inl ⟨enter_alike h _, rfl, rfl, rfl, nofun⟩

theorem enter_resX_next (h : HeaderAlike full L r s u) (hl : L.layout = .b) {c : Chan} {n : Subband}
    (hr : r = resRank L.layout c n) : HeaderNext full L (enter (.resX c n) s) (enter (.resX c n) u) := by
  subst hr
  exact .inl ⟨enter_alike h _, rfl, rfl, rfl, fun _ _ _ => hl⟩

/-- A band is complete: the next one follows, or the header ends. -/
theorem endBand_next (h : HeaderAlike full L r s u) {n : Subband} (hr : r = 3 * n.val + 4) :
    HeaderNext full L (endBand n s) (endBand n u) := by
  unfold endBand
  rw [h.latched, h.latched_right]
  split
  · next hn =>
    refine enter_res_next h ?_
    have := L.maxBand.isLt
    simp only [resRank, nextBand]
    omega
  · next hn => exact .inr (endHeader_ended h (by omega))

/-- After a resolution of layout A (43_layout_a.md R225). -/
theorem afterResA_next {c : Chan} {n : Subband} (h : HeaderAlike full L (resRank L.layout c n + 1) s u)
    (hl : L.layout = .a) : HeaderNext full L (afterResA c n s) (afterResA c n u) := by
  cases c with
  | l =>
    have hrank : resRank L.layout .l n + 1 = msRank L.layout n := by rw [hl]; rfl
    rw [hrank] at h
    unfold afterResA
    dsimp only
    rw [h.latched, h.latched_right]
    split
    · exact enter_ms_next h rfl
    · next hms =>
      exact enter_res_next (h.skipMs (Bool.eq_false_iff.2 hms)) (by rw [hl]; rfl)
  | r => exact endBand_next h (by rw [hl]; rfl)

/-- After a resolution of layout B (44_layout_b.md R244, R257): whether a flag follows depends on the two resolutions just
read, and where none does MS[n] is cleared. -/
theorem afterResB_next {c : Chan} {n : Subband} (h : HeaderAlike full L (resRank L.layout c n + 1) s u)
    (hl : L.layout = .b) : HeaderNext full L (afterResB c n s) (afterResB c n u) := by
  cases c with
  | l => exact enter_res_next h (by rw [hl]; rfl)
  | r =>
    have hleft : coded u .l n = coded s .l n := h.coded_eq (by rw [hl]; simp only [resRank]; omega)
    have hright : coded u .r n = coded s .r n := h.coded_eq (Nat.lt_succ_self _)
    have hrank : resRank L.layout .r n + 1 = msRank L.layout n := by rw [hl]; rfl
    rw [hrank] at h
    unfold afterResB
    dsimp only
    rw [h.latched, h.latched_right, hleft, hright]
    split
    · exact enter_ms_next h rfl
    · exact endBand_next (setMs_alike h false) (by rw [hl]; rfl)

/-! The fields of the header. -/

/-- The field i, which left w in the one machine, runs in u too, and the sequencers move on alike. -/
def FieldAlike (full : Prop) (L : Latched) (i : Instr) (w u : State) : Prop :=
  ∃ x, exec i u = .next x ∧ x.status.busy = true ∧ HeaderNext full L (sequenceAfter i w) (sequenceAfter i x)

theorem fwdjump_alike (h : HeaderAlike full L 0 s u) {j : BitVec 20} {w : State} (hw : exec (.fwdjump j) s = .next w) :
    FieldAlike full L (.fwdjump j) w u := by
  obtain ⟨-, -, hs⟩ := h.parsing_left
  obtain ⟨hb, -, hu⟩ := h.parsing_right
  rw [exec_fwdjump hs] at hw
  cases hw
  refine ⟨_, exec_fwdjump hu j, hb, ?_⟩
  rw [sequenceAfter_fwdjump (by exact hs), sequenceAfter_fwdjump (by exact hu)]
  exact enter_res_next (jumpRead_alike h j) rfl

theorem resA_alike {c : Chan} {n : Subband} (h : HeaderAlike full L (resRank L.layout c n) s u) (hl : L.layout = .a)
    {e : Entry} {w : State} (hw : exec (.resA c n e) s = .next w) (hb : w.status.busy = true) :
    FieldAlike full L (.resA c n e) w u := by
  cases hw
  have hread := writeRes_alike (advance_alike h _) hb
  exact ⟨_, rfl, hread.busy_right, afterResA_next hread hl⟩

theorem res0B_alike {c : Chan} (h : HeaderAlike full L (resRank L.layout c 0) s u) (hl : L.layout = .b)
    {x : BitVec 4} {w : State} (hw : exec (.res0B c x) s = .next w) : FieldAlike full L (.res0B c x) w u := by
  cases hw
  have hread := setRes_alike (advance_alike h 4) (x.setWidth 8)
  exact ⟨_, rfl, hread.busy_right, afterResB_next hread hl⟩

theorem resxB_alike {c : Chan} {n : Subband} (h : HeaderAlike full L (resRank L.layout c n) s u) (hl : L.layout = .b)
    {x : BitVec 4} {w : State} (hw : exec (.resxB c n x) s = .next w) : FieldAlike full L (.resxB c n x) w u := by
  cases hw
  have hread := setRes_alike (advance_alike h 4) (x.setWidth 8)
  exact ⟨_, rfl, hread.busy_right, afterResB_next hread hl⟩

/-- The reference of a delta is the resolution of the subband below, read before (44_layout_b.md R242). -/
theorem resdB_alike {c : Chan} {n : Subband} (h : HeaderAlike full L (resRank L.layout c n) s u) (hl : L.layout = .b)
    (hn : n ≠ 0) {e : Entry} {w : State} (hw : exec (.resdB c n e) s = .next w) (hb : w.status.busy = true) :
    FieldAlike full L (.resdB c n e) w u := by
  have hpos : n.val ≠ 0 := Fin.val_ne_zero_iff.2 hn
  have hbelow : resOf u c (prevBand n) = resOf s c (prevBand n) :=
    h.res_eq (by rw [hl]; cases c <;> simp only [resRank, prevBand] <;> omega)
  by_cases he : entryInt e = escHdr
  · have hexec (x : State) : exec (.resdB c n e) x = .next (consume e x) := if_pos he
    have hseq (x : State) : sequenceAfter (.resdB c n e) x = enter (.resX c n) x := if_pos he
    rw [hexec] at hw
    cases hw
    refine ⟨_, hexec u, h.busy_right, ?_⟩
    rw [hseq, hseq]
    exact enter_resX_next (advance_alike h _) hl rfl
  · have hexec (x : State) := exec_resdB_delta he c n x
    have hseq (x : State) : sequenceAfter (.resdB c n e) x = afterResB c n x := if_neg he
    rw [hexec] at hw
    cases hw
    have hread := writeRes_alike (advance_alike h _) hb
    refine ⟨_, by rw [hexec, hbelow], hread.busy_right, ?_⟩
    rw [hseq, hseq]
    exact afterResB_next hread hl

theorem msflagA_alike {n : Subband} (h : HeaderAlike full L (msRank L.layout n) s u) (hl : L.layout = .a) {b : Bool}
    {w : State} (hw : exec (.msflagA n b) s = .next w) : FieldAlike full L (.msflagA n b) w u := by
  cases hw
  have hread := setMs_alike (advance_alike h 1) b
  exact ⟨_, rfl, hread.busy_right, enter_res_next hread (by rw [hl]; rfl)⟩

theorem msflagB_alike {n : Subband} (h : HeaderAlike full L (msRank L.layout n) s u) (hl : L.layout = .b) {b : Bool}
    {w : State} (hw : exec (.msflagB n b) s = .next w) : FieldAlike full L (.msflagB n b) w u := by
  cases hw
  have hread := setMs_alike (advance_alike h 1) b
  exact ⟨_, rfl, hread.busy_right, endBand_next hread (by rw [hl]; rfl)⟩

/-- Whichever field the point of the header reads. -/
theorem HeaderAt.field (h : HeaderAt full L s u) {f : Field} {i : Instr} {w : State} (hf : fieldAt s = some f)
    (hm : Makes f i) (hw : exec i s = .next w) (hb : w.status.busy = true) : FieldAlike full L i w u := by
  obtain ⟨halike, -, -, hinside, hescape⟩ := h
  have hlay : s.latched.layout = L.layout := congrArg Latched.layout halike.latched
  cases hp : s.run.point with
  | fwdJump =>
    rw [fieldAt_jump (.inl hp)] at hf
    cases hf
    obtain ⟨x, rfl⟩ := hm
    rw [hp] at halike
    exact fwdjump_alike halike hw
  | res c n =>
    rw [hp] at halike
    cases hl : L.layout with
    | a =>
      rw [fieldAt_res_a hp (hlay.trans hl)] at hf
      cases hf
      obtain ⟨e, rfl⟩ := hm
      exact resA_alike halike hl hw hb
    | b =>
      rw [fieldAt_res_b hp (hlay.trans hl)] at hf
      split at hf <;> cases hf <;> obtain ⟨x, rfl⟩ := hm
      · next hn =>
        subst hn
        exact res0B_alike halike hl hw
      · next hn => exact resdB_alike halike hl hn hw hb
  | resX c n =>
    rw [fieldAt_resX hp] at hf
    cases hf
    obtain ⟨x, rfl⟩ := hm
    rw [hp] at halike
    exact resxB_alike halike (hescape c n hp) hw
  | ms n =>
    rw [hp] at halike
    cases hl : L.layout with
    | a =>
      rw [fieldAt_ms_a hp (hlay.trans hl)] at hf
      cases hf
      obtain ⟨x, rfl⟩ := hm
      exact msflagA_alike halike hl hw
    | b =>
      rw [fieldAt_ms_b hp (hlay.trans hl)] at hf
      cases hf
      obtain ⟨x, rfl⟩ := hm
      exact msflagB_alike halike hl hw
  | _ => simp [hp, phaseOf] at hinside

/-! The run. -/

/-- A step that raises nothing. -/
theorem HeaderAt.step (h : HeaderAt full L s u) {t : State} (ht : step s = .next t) (hb : t.status.busy = true) :
    ∃ v, step u = .next v ∧ HeaderNext full L t v := by
  obtain ⟨hbusy, hnoAct, -⟩ := h.alike.parsing_left
  obtain ⟨hbusy', hnoAct', -⟩ := h.alike.parsing_right
  rw [step_of_noActDue s hnoAct hbusy] at ht
  rcases blockStep_cases s t ht with ⟨k, info, -, rfl⟩ | ⟨hp, -⟩ | ⟨hp, -⟩ | ⟨f, i, w, hf, hi, hw, rfl⟩
  · simp at hb
  · have hinside := h.inside
    simp [hp, phaseOf] at hinside
  · have hinside := h.inside
    simp [hp, phaseOf] at hinside
  · have hwb : w.status.busy = true := by
      by_contra hwb
      rw [if_neg hwb] at hb
      exact hwb hb
    have hlatched : u.latched = s.latched := h.alike.latched_right.trans h.alike.latched.symm
    have hf' : fieldAt u = some f := (fieldAt_eq_of_header h.point hlatched h.inside).trans hf
    have hi' : fetch u f = .ok i := (fetch_eq_of_source h.alike.source f).trans hi
    obtain ⟨x, hx, hxb, hnext⟩ := h.field hf (makes_of_fetch hi) hw hwb
    refine ⟨_, stepRunsDecoded.2 u x f i hnoAct' hbusy' hf' hi' hx, ?_⟩
    rw [if_pos hwb, if_pos hxb]
    exact hnext

/-- The two run side by side as long as the one is inside its header. -/
theorem HeaderAt.run (h : HeaderAt full L s u) (k : Nat) {t : State}
    (ht : (Host.Core.run Sys2Proof.core k s : Host.Outcome State Fault Refusal) = .next t) (hb : t.status.busy = true)
    (hheader : ∀ j < k, ∃ m : State,
      (Host.Core.run Sys2Proof.core j s : Host.Outcome State Fault Refusal) = .next m ∧ m.status.busy = true ∧
        m.phase = .header) :
    ∃ v : State, (Host.Core.run Sys2Proof.core k u : Host.Outcome State Fault Refusal) = .next v ∧
      HeaderNext full L t v := by
  induction k generalizing t with
  | zero =>
    cases ht
    exact ⟨u, rfl, .inl h⟩
  | succ k ih =>
    obtain ⟨m, hm, hmb, hmp⟩ := hheader k (Nat.lt_succ_self k)
    obtain ⟨m', hm', hnext⟩ := ih hm hmb fun j hj => hheader j (Nat.lt_succ_of_lt hj)
    have hat : HeaderAt full L m m' := hnext.resolve_right fun hended => hended.past hmp
    rw [run_last k s m hm] at ht
    rw [run_last k u m' hm']
    exact hat.step ht hb

/-- The header field of one frame, nothing read yet. -/
theorem headerAt_of_sameFrame (h : sameFrame s u) : HeaderAt (onlyHeader s u) s.latched s u := by
  obtain ⟨hboth, hlatched, htdir, htcls, htab, hstream, hfault, hdirty, hbp, hms⟩ := h
  obtain ⟨hbs, hns, hps, hphase, hxs⟩ := hboth s (.inl rfl)
  obtain ⟨hbu, hnu, hpu, -, hxu⟩ := hboth u (.inr rfl)
  refine ⟨?_, hpu.trans hps.symm, hphase, by rw [hps]; rfl, by simp [hps]⟩
  rw [hps]
  refine ⟨⟨hbs, hns, hxs⟩, ⟨hbu, hnu, hxu⟩, rfl, ?_, nofun, fun c n hn => ?_, fun n hn => ?_, fun hf => ?_⟩
  · simp only [sourceOf, hlatched, htdir, htcls, htab, hstream, hfault, hdirty, hbp]
  · rcases hn with hn | ⟨⟨-, habove⟩, hn⟩
    · cases hn
    · exact (habove n hn).1 c
  · rcases hn with hn | hn | ⟨⟨-, habove⟩, hn⟩
    · cases hn
    · rw [hms hn]
    · exact (habove n hn).2
  · exact ⟨_, _, _, _, _, _, hf.1⟩

end

/-- Settles O34: from the header field the two machines run side by side, to the next point or to the end of the header. -/
theorem headerForgetsEarlierFrames : Obligations.HeaderForgetsEarlierFrames := by
  intro s u hsame k t ht hb hheader
  obtain ⟨v, hv, hat | hended⟩ := (headerAt_of_sameFrame hsame).run k ht hb hheader
  · exact ⟨v, hv, hat.alike.busy_right, hat.point, congrArg BitSource.bp hat.alike.source, fun hpast => absurd hat.phase hpast⟩
  · exact ⟨v, hv, hended.busy, hended.point, hended.bp, fun _ => ⟨hended.maxUsed, hended.bands, hended.same⟩⟩

end Sys2Proof.Machine
end

section
/-! SUPPORT. The errors OPEN and a bitstream field raise, and the end of the stream (60_exceptions.md R331, R332, R334,
R338). -/

namespace Sys2Proof.Machine

/-! OPEN that raises (60_exceptions.md R332, R338). -/

theorem layoutOf_of_unknown {v : BitVec 8} (h4 : v ≠ 4) (h5 : v ≠ 5) (h6 : v ≠ 6) (h7 : v ≠ 7) : layoutOf v = none := by
  rw [layoutOf, if_neg (by rintro (h | h | h); exacts [h4 h, h5 h, h6 h]), if_neg h7]

theorem openCheck_of_unknown {r : Regs} (h : layoutOf r.descVersion = none) :
    openCheck r = some (.badVersion, r.descVersion.toNat) := by
  rw [openCheck, if_pos (by rw [h]; rfl)]

/-- The offset of the first register of an illegal descriptor that is out of range (60_exceptions.md R338). -/
def offendingOffset (r : Regs) : Nat :=
  if r.descLastvalid.toNat = 0 ∨ 1152 < r.descLastvalid.toNat then 0x20
  else if r.descHdroff.toNat % 4 ≠ 0 then 0x24 else 0x2C

theorem openCheck_of_illegal {r : Regs}
    (htag : r.descVersion = 4 ∨ r.descVersion = 5 ∨ r.descVersion = 6 ∨ r.descVersion = 7) (h : ¬ DescriptorLegal r) :
    openCheck r = some (.badDescriptor, offendingOffset r) := by
  have hlay : ¬ (layoutOf r.descVersion).isNone = true := by simp [layoutOf_of_legal htag]
  rw [openCheck, if_neg hlay, frameLen, offendingOffset]
  by_cases hlast : r.descLastvalid.toNat = 0 ∨ 1152 < r.descLastvalid.toNat
  · rw [if_pos hlast, if_pos hlast]
  rw [if_neg hlast, if_neg hlast]
  by_cases hoff : r.descHdroff.toNat % 4 ≠ 0
  · rw [if_pos hoff, if_pos hoff]
  rw [if_neg hoff, if_neg hoff, if_pos]
  by_contra hlen
  exact h ⟨htag, by omega, by omega, by omega, by omega, by omega⟩

/-- An OPEN that raises leaves the stream closed and the Frame data as they were (log 14). -/
theorem exec_openCmd_raised {s : State} (hready : s.status.tablesReady = true) {k : RaiseKind} {info : Nat}
    (hk : raiseFatal k = false) (hc : openCheck s.regs = some (k, info)) :
    ∃ t, exec .openCmd s = .next t ∧ raised s t (raiseStatus k (openStart s).status) info ∧ t.frame = s.frame ∧
      t.status.opened = false := by
  obtain ⟨hraised, -, -, hframe⟩ := raised_of_raise hk info (forgetStream (openStart s)) (openStart s).status
  refine ⟨_, exec_openCmd_raises hready hc, hraised, hframe, ?_⟩
  rw [raise_opened]
  rfl

/-- Settles O7: the tag is checked first, then the three registers in the order of their offsets. -/
theorem openRaises : Obligations.OpenRaises := by
  intro s hready
  refine ⟨fun h4 h5 h6 h7 => ?_, fun htag hdesc => ?_⟩
  · obtain ⟨t, ht, hraised, hframe, hclosed⟩ :=
      exec_openCmd_raised hready rfl (openCheck_of_unknown (layoutOf_of_unknown h4 h5 h6 h7))
    exact ⟨t, ht, hraised, hframe, exec_decode_refused hclosed⟩
  · obtain ⟨t, ht, hraised, hframe, -⟩ := exec_openCmd_raised hready rfl (openCheck_of_illegal htag hdesc)
    refine ⟨t, _, ht, hraised, hframe, ?_⟩
    unfold offendingOffset
    split
    · rfl
    · split <;> rfl

/-! The end of the stream (60_exceptions.md R334). -/

theorem startFrame_of_noFrameLeft {s : State} (h : s.latched.frames.toNat ≤ s.dec.frameCtr.toNat) (replay : Bool) :
    startFrame replay s =
      { s with status := { s.status with errCmd := false, eos := true }, regs.samplesOut := 0 } := if_pos h

@[simp] theorem raise_eos (k : RaiseKind) (info : Nat) (s : State) : (raise k info s).status.eos = s.status.eos := by
  cases k <;> rfl

/-- OPEN clears EOS before its checks, so also when it raises. -/
theorem exec_openCmd_eos {s t : State} (hready : s.status.tablesReady = true) (h : exec .openCmd s = .next t) :
    t.status.eos = false := by
  cases hc : openCheck s.regs with
  | some e => cases (exec_openCmd_raises hready hc).symm.trans h; exact raise_eos _ _ _
  | none => cases (exec_openCmd_opens hready hc).symm.trans h; rfl

/-- Settles O10: both commands are `startFrame`; OPEN and SETPOS write EOS. -/
theorem endOfStream : Obligations.EndOfStream := by
  refine ⟨fun s ho hend => ?_, fun s t => exec_openCmd_eos, fun s t ⟨ho, hf⟩ h => ?_⟩
  · rw [exec_decode_opened ho, exec_replay_opened ho, startFrame_of_noFrameLeft hend, startFrame_of_noFrameLeft hend]
    exact ⟨rfl, rfl⟩
  · cases (exec_setpos_allowed ho hf).symm.trans h
    rfl

/-! A field that cannot be read (60_exceptions.md R331). -/

theorem streamBit_eq_none {s : State} {p : Nat} (h : wordFails s (p / 32) = true) : streamBit s p = none := if_pos h

/-- Bit i is the first of the upcoming bits that cannot be read. -/
def FirstUnreadable (bits : List StreamBit) (i : Nat) : Prop :=
  (∀ j < i, ∃ b, bits[j]? = some (some b)) ∧ bits[i]? = some none

theorem firstUnreadable_window {s : State} {i : Nat} (hi : i < 20)
    (hread : ∀ j < i, wordFails s ((s.dec.bp.toNat + j) / 32) = false)
    (hfail : wordFails s ((s.dec.bp.toNat + i) / 32) = true) : FirstUnreadable (window s) i := by
  refine ⟨fun j hj => ⟨bitValue s (s.dec.bp.toNat + j), ?_⟩, ?_⟩
  · rw [window, upcoming_getElem? s 20 j (by omega), streamBit_eq_bitValue (hread j hj)]
  · rw [window, upcoming_getElem? s 20 i hi, streamBit_eq_none hfail]

theorem fetch_raw_readFail {s : State} {n i : Nat} (mk : Nat → Instr) (h1 : 1 ≤ n) (h20 : n ≤ 20) (hi : i < n)
    (h : FirstUnreadable (window s) i) : fetch s (.raw n mk) = .error (.readFail i) := by
  rw [fetch, decodeField, decodeRaw, if_neg (by omega), readBits_readFail n 0 0 i (window s) hi h.1 h.2, Nat.zero_add,
    Except.map]

theorem fetch_huf_readFail {s : State} {l : Layout} {t : Fin 17} {w i : Nat} {e : Entry} (mk : Entry → Instr)
    (hw : classWidth (builtTable s l t).cls = some w)
    (he : (builtTable s l t).entries.find? (entryMatches w (peekBits w 0 (window s))) = some e) (hi : i < e.len.toNat)
    (h : FirstUnreadable (window s) i) : fetch s (.huf l t mk) = .error (.readFail i) := by
  have hdec : decodeHuf (builtTable s l t) (window s) = .error (.readFail i) := by
    simp only [decodeHuf, hw, he, firstFail_some _ 0 i (window s) hi h.1 h.2, Nat.zero_add]
  rw [fetch, decodeField, hdec, Except.map]

/-- Settles O43: the fetch of either format fails at the bit, and the step raises ReadError with the bit's position. -/
theorem readErrorRaised : Obligations.ReadErrorRaised := by
  intro s i hn hb hfield hread hfail
  obtain ⟨f, hf, he⟩ : ∃ f, fieldAt s = some f ∧ fetch s f = .error (.readFail i) := by
    rcases hfield with ⟨n, mk, hf, h1, h20, hi⟩ | ⟨l, t, mk, w, e, hf, hw, he, hlen, hi⟩
    · exact ⟨_, hf, fetch_raw_readFail mk h1 h20 hi (firstUnreadable_window (by omega) hread hfail)⟩
    · exact ⟨_, hf, fetch_huf_readFail mk hw he hi (firstUnreadable_window (by omega) hread hfail)⟩
  exact ⟨_, step_of_fetch_error hn hb hf he, raisedFatal_of_raise rfl _ s, raise_latched _ _ s⟩

end Sys2Proof.Machine
end

section
/-! SUPPORT. What the host does from outside the block: a change of STREAM, which OPEN and SETPOS discard, and the reset input
(20_memory.md R84, 70_reset_and_hazards.md R360, R374). -/

namespace Sys2Proof.Machine

/-! A change of STREAM. -/

theorem hostStep_putStream {a : Nat} (ha : a < 2 ^ 32) (b : Byte) (s : State) :
    hostStep (.putStream a b) s = .next (putStream a b s) := if_neg (not_le.2 ha)

theorem putStream_closed {s : State} (h : s.status.opened = false) (a : Nat) (b : Byte) :
    putStream a b s = { s with stream := ramWrite s.stream a [b] } := if_neg (by simp [h])

theorem putStream_opened {s : State} (h : s.status.opened = true) (a : Nat) (b : Byte) :
    putStream a b s =
      { s with stream := ramWrite s.stream a [b], streamDirty := some s.freeCtr, freeCtr := s.freeCtr + 1 } := if_pos h

theorem byteAt_putStream (a : Nat) (b : Byte) (s : State) : byteAt (putStream a b s) .stream a = b := by
  obtain ⟨d, k, h⟩ := putStream_frame a b s
  rw [h]
  simp [byteAt, ramByte_ramWrite]

theorem byteAt_putStream_other (a : Nat) (b : Byte) (s : State) {sp : Space} {x : Nat} (hx : sp ≠ .stream ∨ x ≠ a) :
    byteAt (putStream a b s) sp x = byteAt s sp x := by
  obtain ⟨d, k, h⟩ := putStream_frame a b s
  rw [h]
  cases sp with
  | stream =>
    refine ramByte_ramWrite_outside .stream s.stream a [b] x ?_
    have hne : x ≠ a := hx.resolve_left (fun h => h rfl)
    rw [List.length_singleton]
    omega
  | lit | tab | out => rfl

/-- Under an open stream the bits of a readable word are those of the occasion (log 21). -/
theorem streamBit_of_dirty {s : State} {k p : Nat} (hd : s.streamDirty = some k) (hf : wordFails s (p / 32) = false) :
    streamBit s p = some (Config.staleBit k s.dec.bp.toNat p) := by
  rw [streamBit_eq_bitValue hf, bitValue, hd]

@[simp] theorem raise_streamDirty (k : RaiseKind) (info : Nat) (s : State) :
    (raise k info s).streamDirty = s.streamDirty := (raise_hostDataKept k info s).streamDirty

/-- An OPEN that leaves the stream open passed its checks. -/
theorem exec_openCmd_discards {s t : State} (hready : s.status.tablesReady = true) (h : exec .openCmd s = .next t)
    (ho : t.status.opened = true) : t.streamDirty = none := by
  cases hc : openCheck s.regs with
  | some e =>
    cases (exec_openCmd_raises hready hc).symm.trans h
    rw [raise_opened] at ho
    cases ho
  | none =>
    cases (exec_openCmd_opens hready hc).symm.trans h
    rfl

theorem build_streamDirty (s : State) : (build s).streamDirty = s.streamDirty := by
  rcases build_cases s with ⟨i, -, h⟩ | ⟨-, tab, tcls, h, -⟩ <;> rw [h]
  exact raise_streamDirty _ _ _

theorem startFrame_streamDirty (replay : Bool) (s : State) : (startFrame replay s).streamDirty = s.streamDirty := by
  unfold startFrame
  dsimp only
  split <;> rfl

/-- Every instruction but OPEN and SETPOS leaves the mark of a changed STREAM. -/
theorem exec_streamDirty {i : Instr} {s t : State} (h : exec i s = .next t) (hopen : i ≠ .openCmd) (hpos : i ≠ .setpos) :
    t.streamDirty = s.streamDirty := by
  cases i with
  | openCmd => exact absurd rfl hopen
  | setpos => exact absurd rfl hpos
  | nop | seed => cases h; rfl
  | build => cases h; exact build_streamDirty _
  | resync =>
    simp only [exec, execResync] at h
    split at h <;> cases h <;> rfl
  | decode =>
    simp only [exec, execDecode] at h
    split at h <;> cases h
    · exact startFrame_streamDirty _ s
    · rfl
  | replay =>
    simp only [exec, execReplay] at h
    split at h <;> cases h
    · exact startFrame_streamDirty _ s
    · rfl
  | _ => exact (exec_field_hostDataKept ⟨false, _, rfl⟩ h).streamDirty

/-- Settles O51: `putStream` writes one byte and marks an open stream; only OPEN and SETPOS clear the mark. -/
theorem streamChange : Obligations.StreamChange := by
  refine ⟨fun s a b ha => ⟨_, hostStep_putStream ha b s, byteAt_putStream a b s, fun _ _ => byteAt_putStream_other a b s,
      fun ho => ?_, fun ho => ⟨?_, fun u p hd hf => ?_⟩⟩,
    fun s t h ho hready => exec_openCmd_discards hready h ho, fun s t ⟨ho, hf⟩ h => ?_, fun i s t => exec_streamDirty⟩
  · rw [putStream_closed ho]
  · rw [putStream_opened ho]
  · rw [putStream_opened ho] at hd
    exact streamBit_of_dirty hd hf
  · cases (exec_setpos_allowed ho hf).symm.trans h
    rfl

/-! The reset input. -/

/-- Settles O52: the reset input loads what `State.reset` holds in every register of the table. -/
theorem resetValues : Obligations.ResetValues := by
  have hstatus : statusWord State.reset.status = 0 := by decide
  have harrays (i : Fin 34) : State.reset.tdir[i] = 0 ∧ State.reset.tcls[i] = 0 := by simp [State.reset]
  exact ⟨⟨hstatus, rfl, rfl, rfl, rfl, rfl, rfl, rfl, rfl, reset_carry, reset_ms, reset_y_zero, rfl, rfl, rfl, harrays⟩,
    fun _ => ⟨_, rfl, hstatus, rfl, rfl, rfl, rfl, rfl, rfl, rfl, rfl, reset_carry, reset_ms, reset_y_zero, rfl, rfl, rfl,
      harrays⟩⟩

end Sys2Proof.Machine
end

section
/-! SUPPORT. A step of a running command is a next state (60_exceptions.md R340, R349): every point of the parser reads a field
or works without one, and a field that cannot be read raises. -/

namespace Sys2Proof.Machine

/-! Every point has its field. -/

/-- A legal resolution selects a field (42_frame_parser.md R183, R190). -/
theorem coefField_of_legal {s : State} {c : Chan} {n : Subband} (hlo : -1 ≤ (resOf s c n).toInt)
    (hhi : (resOf s c n).toInt ≤ 17) (k : Slot) : ∃ f, coefField s c n k = some f := by
  obtain h | h | ⟨r, h⟩ | ⟨i, h⟩ : (resOf s c n).toInt = -1 ∨ (resOf s c n).toInt = 0 ∨
      (∃ r : Fin 7, (resOf s c n).toInt = r.val + 1) ∨ ∃ i : Fin 10, (resOf s c n).toInt = 8 + i.val := by
    by_cases hsym : 1 ≤ (resOf s c n).toInt ∧ (resOf s c n).toInt ≤ 7
    · exact .inr (.inr (.inl ⟨⟨((resOf s c n).toInt - 1).toNat, by omega⟩, by dsimp only; omega⟩))
    · by_cases hfix : 8 ≤ (resOf s c n).toInt
      · exact .inr (.inr (.inr ⟨⟨((resOf s c n).toInt - 8).toNat, by omega⟩, by dsimp only; omega⟩))
      · omega
  · exact ⟨_, coefField_noise h k⟩
  · exact ⟨_, coefField_zero h k⟩
  · exact ⟨_, coefField_symbol h k⟩
  · exact ⟨_, coefField_fixed h k⟩

/-- The points at which the sequencer reads no field. -/
def FieldlessPoint (p : Point) : Prop := p = .idle ∨ p = .requant ∨ p = .synth

theorem fieldAt_isSome {s : State} (hp : ¬ FieldlessPoint s.run.point)
    (hres : ∀ c n, -1 ≤ (resOf s c n).toInt ∧ (resOf s c n).toInt ≤ 17) : ∃ f, fieldAt s = some f := by
  cases hpt : s.run.point with
  | idle => exact absurd (.inl hpt) hp
  | requant => exact absurd (.inr (.inl hpt)) hp
  | synth => exact absurd (.inr (.inr hpt)) hp
  | coef c n k =>
    rw [fieldAt_coef hpt]
    exact coefField_of_legal (hres c n).1 (hres c n).2 k
  | fwdJump | extraJump | resX _ _ | scfX _ _ _ => exact ⟨_, by simp only [fieldAt, hpt]; rfl⟩
  | res c n =>
    cases hl : s.latched.layout with
    | a => exact ⟨_, fieldAt_res_a hpt hl⟩
    | b => rw [fieldAt_res_b hpt hl]; split <;> exact ⟨_, rfl⟩
  | ms n =>
    cases hl : s.latched.layout with
    | a => exact ⟨_, fieldAt_ms_a hpt hl⟩
    | b => exact ⟨_, fieldAt_ms_b hpt hl⟩
  | scfi c n =>
    cases hl : s.latched.layout with
    | a => exact ⟨_, fieldAt_scfi_a hpt hl⟩
    | b => exact ⟨_, fieldAt_scfi_b hpt hl⟩
  | scf c n g =>
    cases hl : s.latched.layout with
    | a => rw [fieldAt_scf_a hpt hl]; split <;> exact ⟨_, rfl⟩
    | b => exact ⟨_, fieldAt_scf_b hpt hl⟩
  | shape c n =>
    cases hl : s.latched.layout with
    | a => exact ⟨_, fieldAt_shape_a hpt hl⟩
    | b => exact ⟨_, fieldAt_shape_b hpt hl⟩

/-! A field that cannot be read raises. -/

/-- GetBits takes the format's width (40_bitreader.md R132). -/
def WidthLegal : Field → Prop
  | .zero _ => True
  | .raw n _ => 1 ≤ n ∧ n ≤ 20
  | .huf _ _ _ => True

theorem widthLegal_raw {n : Nat} (mk : Nat → Instr) (h : 1 ≤ n ∧ n ≤ 20) : WidthLegal (.raw n mk) := h

theorem coefField_widthLegal {s : State} {c : Chan} {n : Subband} {k : Slot} {f : Field}
    (h : coefField s c n k = some f) : WidthLegal f := by
  unfold coefField at h
  dsimp only at h
  split at h <;> cases h <;> first
    | exact trivial
    | exact widthLegal_raw _ (Laws.FieldWidth.resBits_range _)

/-- The parser asks for the widths of its formats only (30_encoding.md R106). -/
theorem fieldAt_widthLegal {s : State} {f : Field} (h : fieldAt s = some f) : WidthLegal f := by
  cases hpt : s.run.point with
  | idle | requant | synth => simp [fieldAt, hpt] at h
  | coef c n k => exact coefField_widthLegal ((fieldAt_coef hpt).symm.trans h)
  | fwdJump | extraJump | resX _ _ | scfX _ _ _ =>
    simp only [fieldAt, hpt] at h
    cases h
    exact widthLegal_raw _ (by decide)
  | ms _ | shape _ _ =>
    cases hl : s.latched.layout <;> simp only [fieldAt, hpt, hl] at h <;> cases h <;> exact widthLegal_raw _ (by decide)
  | scfi _ _ => cases hl : s.latched.layout <;> simp only [fieldAt, hpt, hl] at h <;> cases h <;> trivial
  | res c n =>
    cases hl : s.latched.layout <;> simp only [fieldAt, hpt, hl] at h
    · cases h; trivial
    · split at h <;> cases h
      · exact widthLegal_raw _ (by decide)
      · trivial
  | scf c n g =>
    cases hl : s.latched.layout <;> simp only [fieldAt, hpt, hl] at h
    · split at h <;> cases h
      · trivial
      · exact widthLegal_raw _ (by decide)
    · cases h; trivial

theorem decodeRaw_error {n : Nat} {bits : List StreamBit} {e : DecodeError} (h1 : 1 ≤ n) (h20 : n ≤ 20)
    (h : decodeRaw n bits = .error e) : ∃ i, e = .readFail i := by
  rw [decodeRaw, if_neg (by omega)] at h
  exact readBits_error _ _ _ _ _ h

theorem decodeHuf_error {t : Table} {bits : List StreamBit} {e : DecodeError} (h : decodeHuf t bits = .error e) :
    (∃ i, e = .readFail i) ∨ e = .tableAbsent ∨ e = .noCodeword := by
  unfold decodeHuf at h
  split at h
  · cases h; exact .inr (.inl rfl)
  · split at h
    · cases h; exact .inr (.inr rfl)
    · split at h <;> cases h
      exact .inl ⟨_, rfl⟩

theorem exceptMap_error {α β ε : Type} {g : α → β} {x : Except ε α} {e : ε} (h : x.map g = .error e) : x = .error e := by
  cases x with
  | error e' => cases h; rfl
  | ok a => cases h

/-- No field of the parser is refused for its width (40_bitreader.md R132). -/
theorem fetch_error {s : State} {f : Field} {e : DecodeError} (hw : WidthLegal f) (h : fetch s f = .error e) :
    (∃ i, e = .readFail i) ∨ e = .tableAbsent ∨ e = .noCodeword := by
  cases f with
  | zero i => cases h
  | raw n mk =>
    obtain ⟨h1, h20⟩ := hw
    exact .inl (decodeRaw_error h1 h20 (exceptMap_error h))
  | huf l t mk => exact decodeHuf_error (exceptMap_error h)

theorem fieldStep_next {s : State} {f : Field} (hf : fieldAt s = some f) : ∃ t, fieldStep s = .next t := by
  cases hd : fetch s f with
  | error e =>
    simp only [fieldStep, hf, hd]
    rcases fetch_error (fieldAt_widthLegal hf) hd with ⟨i, rfl⟩ | rfl | rfl <;> exact ⟨_, rfl⟩
  | ok i =>
    obtain ⟨u, hu, -⟩ := exec_field i s (isField_of_fetch s f i hf hd)
    simp only [fieldStep, hf, hd, hu]
    exact ⟨_, rfl⟩

theorem PointOk.not_idle {s : State} (h : PointOk s) : s.run.point ≠ .idle := by
  intro hp
  simp [PointOk, hp] at h

theorem blockStep_next {s : State} (hp : PointOk s) (hres : ∀ c n, -1 ≤ (resOf s c n).toInt ∧ (resOf s c n).toInt ≤ 17) :
    ∃ t, blockStep s = .next t := by
  by_cases hfield : FieldlessPoint s.run.point
  · rcases hfield with h | h | h
    · exact absurd h hp.not_idle
    · exact ⟨_, by rw [blockStep, h]⟩
    · exact ⟨_, by rw [blockStep, h]⟩
  · obtain ⟨f, hf⟩ := fieldAt_isSome hfield hres
    rw [blockStep_field s f hf]
    exact fieldStep_next hf

/-- Settles O58: with no act due the step is the block's, and the stream of a running command is open. -/
theorem busyStepCompletes : Obligations.BusyStepCompletes := by
  intro s hc hres hn hb
  rw [step_of_noActDue s hn hb]
  refine blockStep_next (hc.point hb) fun c n => ?_
  obtain ⟨hlo, hhi, -⟩ := hres (hc.opened hb) c n
  exact ⟨hlo, hhi⟩

end Sys2Proof.Machine
end

section
/-! SUPPORT. DECODE and REPLAY terminate (70_reset_and_hazards.md R378): a bound on the steps still to come, which every step
of the running block lowers. -/

namespace Sys2Proof.Machine

/-! The steps still to come. -/

/-- A bound on the steps from the samples of the subband-channel at place k on: a shaping selector and 36 coefficients each,
then the requantizer and the synthesis. -/
def samplesLeft (k : Nat) : Nat := 37 * (64 - k) + 2

/-- From the scalefactors of place k on: three indices each, every one of them escaped. -/
def scalefactorsLeft (k : Nat) : Nat := 6 * (64 - k) + samplesLeft 0

/-- From the indicator of place k on. -/
def indicatorsLeft (k : Nat) : Nat := 64 - k + scalefactorsLeft 0

/-- From the resolutions of subband n on: two resolutions, every one of them escaped, and a flag. -/
def bandsLeft (n : Nat) : Nat := 5 * (32 - n) + indicatorsLeft 0

/-- A bound on the steps from a point to the end of the frame's synthesis. The layouts differ in the place of the mid/side
flag (43_layout_a.md R225, 44_layout_b.md R257). -/
def pointWork (l : Layout) : Point → Nat
  | .idle => 0
  | .fwdJump => bandsLeft 0 + 1
  | .extraJump => bandsLeft 0 + 1
  | .res .l n => bandsLeft (n.val + 1) + 5
  | .res .r n => bandsLeft (n.val + 1) + 3
  | .resX .l n => bandsLeft (n.val + 1) + 4
  | .resX .r n => bandsLeft (n.val + 1) + 2
  | .ms n => bandsLeft (n.val + 1) + match l with
    | .a => 4
    | .b => 1
  | .scfi c n => indicatorsLeft (chanOrder c n + 1) + 1
  | .scf c n g => scalefactorsLeft (chanOrder c n + 1) + 2 * (3 - g.val)
  | .scfX c n g => scalefactorsLeft (chanOrder c n + 1) + 2 * (2 - g.val) + 1
  | .shape c n => samplesLeft (chanOrder c n + 1) + 37
  | .coef c n k => samplesLeft (chanOrder c n + 1) + (36 - k.val)
  | .requant => 2
  | .synth => 1

theorem chanOrder_lt (c : Chan) (n : Subband) : chanOrder c n < 64 := by
  cases c <;> simp only [chanOrder, chanCode] <;> omega

theorem pointWork_le (l : Layout) (p : Point) : pointWork l p ≤ 2979 := by
  cases p with
  | res c n | resX c n =>
    cases c <;> simp only [pointWork, bandsLeft, indicatorsLeft, scalefactorsLeft, samplesLeft] <;> omega
  | ms n => cases l <;> simp only [pointWork, bandsLeft, indicatorsLeft, scalefactorsLeft, samplesLeft] <;> omega
  | _ =>
    simp only [pointWork, bandsLeft, indicatorsLeft, scalefactorsLeft, samplesLeft]
    omega

/-! The field at a point. -/

/-- The last point of the frame at which the field can be fetched. -/
def lastPoint : Instr → Point
  | .nop | .build | .openCmd | .resync | .decode | .replay | .setpos | .seed => .idle
  | .fwdjump _ => .fwdJump
  | .resA c n _ | .resdB c n _ => .res c n
  | .res0B c _ => .res c 0
  | .resxB c n _ => .resX c n
  | .msflagA n _ | .msflagB n _ => .ms n
  | .scfiA c n _ | .scfiB c n _ => .scfi c n
  | .scfrawA c n g _ | .dscfA c n g _ | .dscfB c n g _ => .scf c n g
  | .scfxB c n g _ => .scfX c n g
  | .shapeA c n _ | .shapeB c n _ => .shape c n
  | .qskip c n | .qnoise c n => .coef c n 35
  | .q1B c n j _ => .coef c n ⟨3 * j.val + 2, by omega⟩
  | .q2B c n j _ => .coef c n ⟨2 * j.val + 1, by omega⟩
  | .qfix8 c n k _ | .qfix9 c n k _ | .qfix10 c n k _ | .qfix11 c n k _ | .qfix12 c n k _ | .qfix13 c n k _
  | .qfix14 c n k _ | .qfix15 c n k _ | .qfix16 c n k _ | .qfix17 c n k _
  | .q1A c n k _ | .q2A c n k _ | .q3A c n k _ | .q4A c n k _ | .q5A c n k _ | .q6A c n k _ | .q7A c n k _
  | .q3B c n k _ | .q4B c n k _ | .q5B c n k _ | .q6B c n k _ | .q7B c n k _ => .coef c n k

/-- A header field belongs to the layout; nothing is said of the other fields. -/
def HeaderOfLayout (l : Layout) : Instr → Prop
  | .resA _ _ _ | .msflagA _ _ => l = .a
  | .res0B _ _ | .resdB _ _ _ | .resxB _ _ _ | .msflagB _ _ => l = .b
  | _ => True

/-- A field fetched at p in layout l leaves no more work at its last point than at p. -/
def FetchedAt (l : Layout) (p : Point) (i : Instr) : Prop :=
  HeaderOfLayout l i ∧ pointWork l (lastPoint i) ≤ pointWork l p

theorem coefField_fetchedAt {s : State} {c : Chan} {n : Subband} {k : Slot} {f : Field} {i : Instr}
    (h : coefField s c n k = some f) (hm : Makes f i) (l : Layout) : FetchedAt l (.coef c n k) i := by
  have hwork {j : Slot} (hj : k.val ≤ j.val) : pointWork l (.coef c n j) ≤ pointWork l (.coef c n k) :=
    Nat.add_le_add_left (Nat.sub_le_sub_left hj 36) _
  unfold coefField at h
  dsimp only at h
  split at h <;> cases h <;> first
    | (subst hm; exact ⟨trivial, hwork (Nat.le_of_lt_succ k.isLt)⟩)
    | (obtain ⟨x, rfl⟩ := hm; exact ⟨trivial, le_rfl⟩)
    | (obtain ⟨x, rfl⟩ := hm; exact ⟨trivial, hwork (by dsimp only; omega)⟩)

theorem fieldAt_fetchedAt {s : State} {f : Field} {i : Instr} (hp : PointOk s) (h : fieldAt s = some f)
    (hm : Makes f i) : FetchedAt s.latched.layout s.run.point i := by
  unfold fieldAt at h
  unfold PointOk at hp
  cases hpt : s.run.point with
  | idle | requant | synth => simp [hpt] at h
  | fwdJump | extraJump | scfX _ _ _ =>
    simp only [hpt, Option.some.injEq] at h
    subst h
    obtain ⟨x, rfl⟩ := hm
    exact ⟨trivial, le_rfl⟩
  | res c n =>
    cases hl : s.latched.layout <;> simp only [hpt, hl] at h
    · cases h
      obtain ⟨e, rfl⟩ := hm
      exact ⟨rfl, le_rfl⟩
    · split at h <;> cases h <;> obtain ⟨x, rfl⟩ := hm
      · next hn => exact ⟨rfl, by rw [hn]; exact le_rfl⟩
      · exact ⟨rfl, le_rfl⟩
  | resX c n =>
    rw [hpt] at hp
    simp only [hpt, Option.some.injEq] at h
    subst h
    obtain ⟨x, rfl⟩ := hm
    exact ⟨hp.2.2, le_rfl⟩
  | scf c n g =>
    cases hl : s.latched.layout <;> simp only [hpt, hl] at h
    · split at h <;> cases h <;> obtain ⟨x, rfl⟩ := hm <;> exact ⟨trivial, le_rfl⟩
    · cases h
      obtain ⟨e, rfl⟩ := hm
      exact ⟨trivial, le_rfl⟩
  | ms _ =>
    cases hl : s.latched.layout <;> simp only [hpt, hl, Option.some.injEq] at h <;> subst h <;>
      obtain ⟨x, rfl⟩ := hm <;> exact ⟨rfl, le_rfl⟩
  | scfi _ _ | shape _ _ =>
    cases hl : s.latched.layout <;> simp only [hpt, hl, Option.some.injEq] at h <;> subst h <;>
      obtain ⟨x, rfl⟩ := hm <;> exact ⟨trivial, le_rfl⟩
  | coef c n k =>
    simp only [hpt] at h
    exact coefField_fetchedAt h hm _

/-! The sequencer goes forward. -/

theorem enterSamples_work (l : Layout) (c : Chan) (n : Subband) (s : State) :
    pointWork l (enterSamples c n s).run.point ≤ samplesLeft (chanOrder c n) := by
  have := chanOrder_lt c n
  unfold enterSamples
  split <;> simp only [enter_run_point, pointWork, samplesLeft, Fin.val_zero] <;> omega

theorem enterScalefactor_work (l : Layout) (k : Nat) (s : State) :
    pointWork l (enterScalefactor k s).run.point ≤ scalefactorsLeft k := by
  unfold enterScalefactor
  split
  · next c n h =>
    obtain ⟨-, -, hk⟩ := nextCoded_spec s k c n h
    have := chanOrder_lt c n
    simp only [enter_run_point, pointWork, scalefactorsLeft, Fin.val_zero]
    omega
  · exact (enterSamples_work l .l 0 s).trans (Nat.le_add_left _ _)

theorem enterIndicator_work (l : Layout) (k : Nat) (s : State) :
    pointWork l (enterIndicator k s).run.point ≤ indicatorsLeft k := by
  have hscf : pointWork l (enterScalefactor 0 s).run.point ≤ indicatorsLeft k :=
    (enterScalefactor_work l 0 s).trans (Nat.le_add_left _ _)
  unfold enterIndicator
  split
  · next c n h =>
    obtain ⟨-, -, hk⟩ := nextCoded_spec s k c n h
    have := chanOrder_lt c n
    simp only [enter_run_point, pointWork, indicatorsLeft]
    omega
  · exact hscf

theorem endBand_work (l : Layout) (n : Subband) (s : State) :
    pointWork l (endBand n s).run.point ≤ bandsLeft (n.val + 1) := by
  unfold endBand
  split
  · next h =>
    have hnext : (nextBand n).val = n.val + 1 := Nat.mod_eq_of_lt (by omega)
    simp only [enter_run_point, pointWork, bandsLeft, hnext]
    omega
  · exact (enterIndicator_work l 0 _).trans (Nat.le_add_left _ _)

theorem endChannel_work (l : Layout) (c : Chan) (n : Subband) (s : State) :
    pointWork l (endChannel c n s).run.point ≤ samplesLeft (chanOrder c n + 1) := by
  unfold endChannel
  cases c with
  | l => exact enterSamples_work l .r n s
  | r =>
    dsimp only
    split
    · next h =>
      have hnext : (nextBand n).val = n.val + 1 := Nat.mod_eq_of_lt (by omega)
      have hplace : chanOrder .l (nextBand n) = chanOrder .r n + 1 := by
        simp only [chanOrder, chanCode, hnext]
        omega
      rw [← hplace]
      exact enterSamples_work l .l (nextBand n) s
    · exact Nat.le_add_left _ _

theorem nextCoef_work (l : Layout) (c : Chan) (n : Subband) (k : Nat) (s : State) :
    pointWork l (nextCoef c n k s).run.point ≤ samplesLeft (chanOrder c n + 1) + (36 - k) := by
  unfold nextCoef
  split
  · exact le_rfl
  · exact (endChannel_work l c n s).trans (Nat.le_add_right _ _)

theorem lt_of_nextSegment : ∀ (f : BitVec 2) (g g' : Segment), nextSegment f g = some g' → g < g' := by
  decide

theorem nextScf_work (l : Layout) (c : Chan) (n : Subband) (g : Segment) (s : State) :
    pointWork l (nextScf c n g s).run.point ≤ scalefactorsLeft (chanOrder c n + 1) + 2 * (2 - g.val) := by
  unfold nextScf
  split
  · next g' h =>
    have hlt : g.val < g'.val := lt_of_nextSegment _ g g' h
    simp only [enter_run_point, pointWork]
    omega
  · exact (enterScalefactor_work l _ s).trans (Nat.le_add_right _ _)

theorem afterResA_work (l : Layout) (c : Chan) (n : Subband) (s : State) :
    pointWork l (afterResA c n s).run.point < pointWork l (.res c n) := by
  cases c with
  | l =>
    simp only [afterResA]
    split
    · cases l <;> simp only [enter_run_point, pointWork] <;> omega
    · simp only [enter_run_point, pointWork]
      omega
  | r => exact (endBand_work l n s).trans_lt (Nat.lt_add_of_pos_right (by decide))

/-- In layout B the flag follows the resolution of R. -/
theorem afterResB_work (c : Chan) (n : Subband) (s : State) :
    pointWork .b (afterResB c n s).run.point < pointWork .b (.resX c n) := by
  cases c with
  | l => simp only [afterResB, enter_run_point, pointWork]; omega
  | r =>
    simp only [afterResB]
    split
    · simp only [enter_run_point, pointWork]
      omega
    · exact (endBand_work .b n _).trans_lt (Nat.lt_add_of_pos_right (by decide))

theorem pointWork_resX_lt_res (l : Layout) (c : Chan) (n : Subband) :
    pointWork l (.resX c n) < pointWork l (.res c n) := by
  cases c <;> simp only [pointWork] <;> omega

theorem pointWork_scfX_lt_scf (l : Layout) (c : Chan) (n : Subband) (g : Segment) :
    pointWork l (.scfX c n g) < pointWork l (.scf c n g) := by
  simp only [pointWork]
  omega

theorem nextScf_lt_scfX (l : Layout) (c : Chan) (n : Subband) (g : Segment) (s : State) :
    pointWork l (nextScf c n g s).run.point < pointWork l (.scfX c n g) :=
  Nat.lt_succ_of_le (nextScf_work l c n g s)

theorem nextScf_lt_scf (l : Layout) (c : Chan) (n : Subband) (g : Segment) (s : State) :
    pointWork l (nextScf c n g s).run.point < pointWork l (.scf c n g) :=
  (nextScf_lt_scfX l c n g s).trans (pointWork_scfX_lt_scf l c n g)

/-- The coefficient after the last one a field reads. -/
theorem nextCoef_lt (l : Layout) (c : Chan) (n : Subband) (k : Slot) (s : State) :
    pointWork l (nextCoef c n (k.val + 1) s).run.point < pointWork l (.coef c n k) := by
  refine (nextCoef_work l c n (k.val + 1) s).trans_lt (Nat.add_lt_add_left ?_ _)
  omega

theorem endChannel_lt (l : Layout) (c : Chan) (n : Subband) (s : State) :
    pointWork l (endChannel c n s).run.point < pointWork l (.coef c n 35) :=
  Nat.lt_succ_of_le (endChannel_work l c n s)

/-- After a field less work is left than at its last point. -/
theorem sequenceAfter_work {i : Instr} (hi : IsField i) {s : State} {l : Layout} (hl : HeaderOfLayout l i) :
    pointWork l (sequenceAfter i s).run.point < pointWork l (lastPoint i) := by
  obtain ⟨v, f, hf⟩ := hi
  cases i with
  | nop | build | openCmd | resync | decode | replay | setpos | seed => cases hf
  | fwdjump j =>
    simp only [sequenceAfter, afterJump_point, lastPoint, pointWork, bandsLeft, Fin.val_zero]
    omega
  | resA c n e => exact afterResA_work l c n s
  | res0B c x =>
    cases hl
    exact (afterResB_work c 0 s).trans (pointWork_resX_lt_res .b c 0)
  | resdB c n e =>
    cases hl
    simp only [sequenceAfter]
    split
    · exact pointWork_resX_lt_res .b c n
    · exact (afterResB_work c n s).trans (pointWork_resX_lt_res .b c n)
  | resxB c n x => cases hl; exact afterResB_work c n s
  | msflagA n m => cases hl; exact Nat.lt_succ_self _
  | msflagB n m => cases hl; exact Nat.lt_succ_of_le (endBand_work .b n s)
  | scfiA c n e | scfiB c n e => exact Nat.lt_succ_of_le (enterIndicator_work l _ s)
  | scfrawA c n g x | dscfA c n g e => exact nextScf_lt_scf l c n g s
  | dscfB c n g e =>
    simp only [sequenceAfter]
    split
    · exact pointWork_scfX_lt_scf l c n g
    · exact nextScf_lt_scf l c n g s
  | scfxB c n g x => exact nextScf_lt_scfX l c n g s
  | shapeA c n x | shapeB c n x => exact Nat.lt_succ_self _
  | qskip c n | qnoise c n => exact endChannel_lt l c n s
  | q1B c n j e => exact nextCoef_lt l c n ⟨3 * j.val + 2, by omega⟩ s
  | q2B c n j e => exact nextCoef_lt l c n ⟨2 * j.val + 1, by omega⟩ s
  | _ c n k x => exact nextCoef_lt l c n k s

/-! The work of the command. -/

/-- A bound on the steps to the end of the command: an extra frame may follow the frame itself (46_synthesis.md R298). -/
def runWork (s : State) : Nat := pointWork s.latched.layout s.run.point + if s.run.extra then 0 else 2979

theorem runWork_le (s : State) : runWork s ≤ 5958 := by
  have := pointWork_le s.latched.layout s.run.point
  unfold runWork
  split <;> omega

theorem runWork_lt_of_point {s t : State} (hl : t.latched = s.latched) (hx : t.run.extra = s.run.extra)
    (h : pointWork s.latched.layout t.run.point < pointWork s.latched.layout s.run.point) : runWork t < runWork s := by
  rw [runWork, runWork, hl, hx]
  exact Nat.add_lt_add_right h _

theorem requantStep_work {s : State} (hp : s.run.point = .requant) : runWork (requantStep s) < runWork s := by
  obtain ⟨_, _, _, _, _, h⟩ := requantStep_frame s
  rw [h]
  exact runWork_lt_of_point rfl rfl (by rw [hp]; exact Nat.lt_succ_self 1)

/-- The synthesis ends the command, or starts the extra pass, which no synthesis starts twice. -/
theorem synthStep_work {s : State} (hp : s.run.point = .synth) (hb : (synthStep s).status.busy = true) :
    runWork (synthStep s) < runWork s := by
  cases hx : s.run.extra with
  | true =>
    rw [synthStep_extra hx] at hb
    cases hb
  | false =>
    have hs : runWork s = 2980 := by rw [runWork, hp, hx]; rfl
    have hextra : (synthStep s).run.extra = true := by
      rcases synthStep_cases s with ⟨_, _, _, _, _, h⟩ | ⟨_, h⟩ | ⟨_, _, _, h | h⟩ <;> rw [h] at hb ⊢ <;> cases hb
    have hle := pointWork_le (synthStep s).latched.layout (synthStep s).run.point
    rw [hs, runWork, hextra, if_pos rfl]
    omega

theorem field_work {s u : State} {f : Field} {i : Instr} (hp : PointOk s) (hf : fieldAt s = some f)
    (hi : fetch s f = .ok i) (hu : exec i s = .next u) (hb : u.status.busy = true) :
    runWork (sequenceAfter i u) < runWork s := by
  have hfield := isField_of_fetch s f i hf hi
  obtain ⟨hlayout, hpoint⟩ := fieldAt_fetchedAt hp hf (makes_of_fetch hi)
  have hwork := (sequenceAfter_work (s := u) hfield hlayout).trans_le hpoint
  obtain ⟨u', hu', hw⟩ := exec_field i s hfield
  cases hu.symm.trans hu'
  rcases hw with ⟨_, _, _, _, _, _, _, _, rfl⟩ | ⟨info, bp, rfl⟩
  · obtain ⟨_, _, _, _, _, _, _, _, h⟩ := sequenceAfter_moved i hfield _
    rw [h] at hwork ⊢
    exact runWork_lt_of_point rfl rfl hwork
  · simp at hb

/-- A step of the running block ends the command or lowers the bound. -/
theorem blockStep_work {s t : State} (hp : PointOk s) (h : blockStep s = .next t) (hb : t.status.busy = true) :
    runWork t < runWork s := by
  rcases blockStep_cases s t h with ⟨k, info, -, rfl⟩ | ⟨hpt, rfl⟩ | ⟨hpt, rfl⟩ | ⟨f, i, u, hf, hi, hu, rfl⟩
  · simp at hb
  · exact requantStep_work hpt
  · exact synthStep_work hpt hb
  · split at hb
    next hbu => rw [if_pos hbu]; exact field_work hp hf hi hu hbu
    next hbu => exact absurd hb hbu

/-! Termination. -/

/-- A running command of a state the invariants allow, no act of the host due. -/
structure Running (s : State) : Prop where
  coherent    : Coherent s
  resolutions : ResolutionsLegal s
  noAct       : noActDue s
  busy        : s.status.busy = true

/-- The command goes on with less work left, or it is at its end. -/
theorem Running.step {s : State} (h : Running s) :
    ∃ t, step s = .next t ∧ (t.status.busy = false ∨ Running t ∧ runWork t < runWork s) := by
  obtain ⟨t, ht⟩ := busyStepCompletes s h.coherent h.resolutions h.noAct h.busy
  refine ⟨t, ht, ?_⟩
  cases hb : t.status.busy with
  | false => exact .inl rfl
  | true =>
    have hblock : blockStep s = .next t := (step_of_noActDue s h.noAct h.busy).symm.trans ht
    have hhost : t.host = s.host := (blockStep_hostDataKept hblock).host
    have hnoAct : noActDue t := fun op rest he => h.noAct op rest (hhost ▸ he)
    exact .inr ⟨⟨coherentKept s t h.coherent ht, resolutionsLegalKept s t h.coherent h.resolutions ht, hnoAct, hb⟩,
      blockStep_work (h.coherent.point h.busy) hblock hb⟩

/-- By induction on the bound: a step, and then the steps of what is left. -/
theorem Running.terminates {s : State} (h : Running s) {w : Nat} (hw : runWork s ≤ w) :
    ∃ k t, k ≤ w + 1 ∧ (Host.Core.run Sys2Proof.core k s : Host.Outcome State Fault Refusal) = .next t ∧
      t.status.busy = false := by
  induction w generalizing s with
  | zero =>
    obtain ⟨t, ht, hidle | ⟨-, hlt⟩⟩ := h.step
    · exact ⟨1, t, le_rfl, run_next 0 s t ht, hidle⟩
    · omega
  | succ w ih =>
    obtain ⟨t, ht, hidle | ⟨hrun, hlt⟩⟩ := h.step
    · exact ⟨1, t, by omega, run_next 0 s t ht, hidle⟩
    · obtain ⟨k, u, hk, hu, hidle⟩ := ih hrun (by omega)
      exact ⟨k + 1, u, by omega, (run_next k s t ht).trans hu, hidle⟩

/-- Settles O60: two frames of at most 2979 steps each. -/
theorem commandTerminates : Obligations.CommandTerminates := by
  intro s hc hres hn hb
  obtain ⟨k, t, hk, ht, hidle⟩ := Running.terminates ⟨hc, hres, hn, hb⟩ (runWork_le s)
  exact ⟨k, t, by omega, ht, hidle⟩

end Sys2Proof.Machine
end
